-- ==== Sys2Proof/Word.lean ====
section
/-! DEFINITION. Word.lean: the value types of the block (spec 00_scope R8 to R10). All values are unsigned. -/

namespace Sys2Proof

/-- An 8-bit unsigned value: a register V, a timer, a byte of memory (R8: V_WIDTH, DT_WIDTH, ST_WIDTH). -/
abbrev Byte := BitVec 8

/-- A 16-bit unsigned value: I, PC, a stack entry, an instruction word (R8: I_WIDTH, PC_WIDTH, STACK_ENTRY_WIDTH). -/
abbrev Word := BitVec 16

/-- A register index 0x0 to 0xF (R8: NUM_V; R102). -/
abbrev Reg := Fin 16

/-- A key identifier 0x0 to 0xF (R8: NUM_KEYS; R746). -/
abbrev Key := Fin 16

/-- A framebuffer column 0 to 63 (R8: FB_WIDTH; R110). -/
abbrev Column := Fin 64

/-- A framebuffer row 0 to 31 (R8: FB_HEIGHT; R110). -/
abbrev Row := Fin 32

end Sys2Proof
end

