-- ==== Sys2Proof/Syntax.lean ====
section
/-! DEFINITION. Syntax.lean: the 28 instructions of spec 30_encoding R305 and R307, one constructor per row of
spec/opcode_table.json, in the table's order. The operands are those the row's word holds (R301, R303). -/

namespace Sys2Proof

/-- An instruction: `x` and `y` are register indices, `n` the 4-bit, `nn` the 8-bit and `nnn` the 12-bit immediate
(R301, R302). -/
inductive Instr where
  /-- 00E0, clear the framebuffer (R600). -/
  | cls
  /-- 00EE, return from subroutine (R450). -/
  | ret
  /-- 1NNN, jump (R451). -/
  | jp (nnn : BitVec 12)
  /-- 2NNN, call subroutine (R452). -/
  | call (nnn : BitVec 12)
  /-- 3XNN, skip if register equals immediate (R453). -/
  | seImm (x : Reg) (nn : Byte)
  /-- 4XNN, skip if register differs from immediate (R454). -/
  | sneImm (x : Reg) (nn : Byte)
  /-- 5XY0, skip if registers are equal (R455). -/
  | seReg (x y : Reg)
  /-- 6XNN, load immediate (R500). -/
  | ldImm (x : Reg) (nn : Byte)
  /-- 7XNN, add immediate, no flag (R501). -/
  | addImm (x : Reg) (nn : Byte)
  /-- 8XY0, copy register (R502). -/
  | ldReg (x y : Reg)
  /-- 8XY1, bitwise or (R503). -/
  | or (x y : Reg)
  /-- 8XY2, bitwise and (R504). -/
  | and (x y : Reg)
  /-- 8XY3, bitwise exclusive or (R505). -/
  | xor (x y : Reg)
  /-- 8XY4, add with carry out (R506). -/
  | addReg (x y : Reg)
  /-- 8XY5, subtract V[y] from V[x] (R507). -/
  | sub (x y : Reg)
  /-- 8XY6, shift right by one; `y` is encoded and ignored (R508, R308). -/
  | shr (x y : Reg)
  /-- 8XY7, subtract V[x] from V[y] (R509). -/
  | subn (x y : Reg)
  /-- 8XYE, shift left by one; `y` is encoded and ignored (R510, R308). -/
  | shl (x y : Reg)
  /-- ANNN, load the index register (R550). -/
  | ldI (nnn : BitVec 12)
  /-- DXYN, draw a sprite of `n` rows (R601). -/
  | drw (x y : Reg) (n : BitVec 4)
  /-- FX07, read the delay timer (R650). -/
  | ldVxDt (x : Reg)
  /-- FX15, set the delay timer (R651). -/
  | ldDtVx (x : Reg)
  /-- FX18, set the sound timer (R652). -/
  | ldStVx (x : Reg)
  /-- FX1E, add register to the index register (R551). -/
  | addIVx (x : Reg)
  /-- FX29, point I at a font glyph (R552). -/
  | ldFVx (x : Reg)
  /-- FX33, store binary-coded decimal (R553). -/
  | ldBVx (x : Reg)
  /-- FX55, store registers V0 to Vx (R554). -/
  | ldMemVx (x : Reg)
  /-- FX65, load registers V0 to Vx (R555). -/
  | ldVxMem (x : Reg)
  deriving DecidableEq, Repr

/-- The instruction's name in the opcode map of R307 (and in spec/opcode_table.json). -/
def Instr.mnemonic : Instr → String
  | .cls => "CLS"
  | .ret => "RET"
  | .jp _ => "JP"
  | .call _ => "CALL"
  | .seImm _ _ => "SE_IMM"
  | .sneImm _ _ => "SNE_IMM"
  | .seReg _ _ => "SE_REG"
  | .ldImm _ _ => "LD_IMM"
  | .addImm _ _ => "ADD_IMM"
  | .ldReg _ _ => "LD_REG"
  | .or _ _ => "OR"
  | .and _ _ => "AND"
  | .xor _ _ => "XOR"
  | .addReg _ _ => "ADD_REG"
  | .sub _ _ => "SUB"
  | .shr _ _ => "SHR"
  | .subn _ _ => "SUBN"
  | .shl _ _ => "SHL"
  | .ldI _ => "LD_I"
  | .drw _ _ _ => "DRW"
  | .ldVxDt _ => "LD_VX_DT"
  | .ldDtVx _ => "LD_DT_VX"
  | .ldStVx _ => "LD_ST_VX"
  | .addIVx _ => "ADD_I_VX"
  | .ldFVx _ => "LD_F_VX"
  | .ldBVx _ => "LD_B_VX"
  | .ldMemVx _ => "LD_MEM_VX"
  | .ldVxMem _ => "LD_VX_MEM"

end Sys2Proof
end

