-- ==== Sys2Proof/WellFormed.lean ====
section
/-! DEFINITION. WellFormed.lean: what an instruction's operands must satisfy to have an encoding (spec 30_encoding R301,
R303). Each operand fits the width of its field. `Instr` types its operands by those widths (Fin 16, BitVec 4, 8, 12), so
every term of it passes (`wellFormed_all of Laws/Decode.lean`). The check itself is on numbers, as a writer of an
instruction gives them, and refuses one that is too large for its field. -/

namespace Sys2Proof

/-- Does the number `v` fit a field of `width` bits (R301)? -/
def fieldFits (width v : Nat) : Bool := decide (v < 2 ^ width)

/-- The instruction's operands as (width of the field in the word, value), in the order of R307's column
"fields used"; the ignored `y` of SHR and SHL is a field of the word too (R308). -/
def Instr.operandFields : Instr → List (Nat × Nat)
  | .cls => []
  | .ret => []
  | .jp nnn => [(12, nnn.toNat)]
  | .call nnn => [(12, nnn.toNat)]
  | .seImm x nn => [(4, x.val), (8, nn.toNat)]
  | .sneImm x nn => [(4, x.val), (8, nn.toNat)]
  | .seReg x y => [(4, x.val), (4, y.val)]
  | .ldImm x nn => [(4, x.val), (8, nn.toNat)]
  | .addImm x nn => [(4, x.val), (8, nn.toNat)]
  | .ldReg x y => [(4, x.val), (4, y.val)]
  | .or x y => [(4, x.val), (4, y.val)]
  | .and x y => [(4, x.val), (4, y.val)]
  | .xor x y => [(4, x.val), (4, y.val)]
  | .addReg x y => [(4, x.val), (4, y.val)]
  | .sub x y => [(4, x.val), (4, y.val)]
  | .shr x y => [(4, x.val), (4, y.val)]
  | .subn x y => [(4, x.val), (4, y.val)]
  | .shl x y => [(4, x.val), (4, y.val)]
  | .ldI nnn => [(12, nnn.toNat)]
  | .drw x y n => [(4, x.val), (4, y.val), (4, n.toNat)]
  | .ldVxDt x => [(4, x.val)]
  | .ldDtVx x => [(4, x.val)]
  | .ldStVx x => [(4, x.val)]
  | .addIVx x => [(4, x.val)]
  | .ldFVx x => [(4, x.val)]
  | .ldBVx x => [(4, x.val)]
  | .ldMemVx x => [(4, x.val)]
  | .ldVxMem x => [(4, x.val)]

/-- Do all of a list of operands, each with its field's width, fit their fields? -/
def operandsFit (fields : List (Nat × Nat)) : Bool := fields.all fun f => fieldFits f.1 f.2

/-- The instruction is well formed: every operand fits its field of the word (R301, R303). -/
def Instr.wellFormed (i : Instr) : Bool := operandsFit i.operandFields

end Sys2Proof
end

