-- ==== Sys2Proof/Decode.lean ====
section
/-! DEFINITION. Decode.lean: the decoder of spec 30_encoding R300 to R311 (total on all words and on all byte strings, every
refusal named), the encoder beside it, and the opcode map of R307 as data. -/

namespace Sys2Proof

/-! ## Fields of the word (R301, R302) -/

/-- `f = w[15:12]`, the family. -/
def fieldF (w : Word) : Fin 16 := (w.extractLsb' 12 4).toFin

/-- `x = w[11:8]`, the register index X. -/
def fieldX (w : Word) : Reg := (w.extractLsb' 8 4).toFin

/-- `y = w[7:4]`, the register index Y. -/
def fieldY (w : Word) : Reg := (w.extractLsb' 4 4).toFin

/-- `n = w[3:0]`, the 4-bit immediate. -/
def fieldN (w : Word) : BitVec 4 := w.extractLsb' 0 4

/-- `nn = w[7:0]`, the 8-bit immediate. -/
def fieldNN (w : Word) : Byte := w.extractLsb' 0 8

/-- `nnn = w[11:0]`, the 12-bit address. -/
def fieldNNN (w : Word) : BitVec 12 := w.extractLsb' 0 12

/-! ## Decode (R304 to R306, R309, R310) -/

/-- Why bytes are no instruction: one reason per row of R309's table of the unknown space, and too few bytes for a word.
The reasons are the model's names; every unknown word has the one effect of R712. -/
inductive NotInstr where
  /-- Family 0x0, neither 0x00E0 nor 0x00EE. -/
  | family0
  /-- 0x5XYN with N not 0. -/
  | family5
  /-- 0x8XYN with N one of 8, 9, A, B, C, D, F. -/
  | family8
  /-- All of family 0x9. -/
  | family9
  /-- All of family 0xB. -/
  | familyB
  /-- All of family 0xC. -/
  | familyC
  /-- All of family 0xE. -/
  | familyE
  /-- 0xFXNN with NN not one of 07, 15, 18, 1E, 29, 33, 55, 65. -/
  | familyF
  /-- Fewer than two bytes, so no word (R300). -/
  | tooShort
  deriving DecidableEq, Repr

/-- The decoder's answer: one of the 28 instructions, or UNKNOWN with its reason. -/
inductive Decoded where
  | instr (i : Instr)
  | unknown (why : NotInstr)
  deriving DecidableEq, Repr

/-- The secondary dispatch of family 0x0, on the whole word (R304, R305). -/
def decodeFamily0 (w : Word) : Decoded :=
  if w = 0x00E0#16 then .instr .cls
  else if w = 0x00EE#16 then .instr .ret
  else .unknown .family0

/-- The secondary dispatch of family 0x5, on the low nibble (R304, R305). -/
def decodeFamily5 (w : Word) : Decoded :=
  if fieldN w = 0#4 then .instr (.seReg (fieldX w) (fieldY w)) else .unknown .family5

/-- The secondary dispatch of family 0x8, on the low nibble (R304, R305). -/
def decodeFamily8 (w : Word) : Decoded :=
  match (fieldN w).toNat with
  | 0x0 => .instr (.ldReg (fieldX w) (fieldY w))
  | 0x1 => .instr (.or (fieldX w) (fieldY w))
  | 0x2 => .instr (.and (fieldX w) (fieldY w))
  | 0x3 => .instr (.xor (fieldX w) (fieldY w))
  | 0x4 => .instr (.addReg (fieldX w) (fieldY w))
  | 0x5 => .instr (.sub (fieldX w) (fieldY w))
  | 0x6 => .instr (.shr (fieldX w) (fieldY w))
  | 0x7 => .instr (.subn (fieldX w) (fieldY w))
  | 0xE => .instr (.shl (fieldX w) (fieldY w))
  | _ => .unknown .family8

/-- The secondary dispatch of family 0xF, on the low byte (R304, R305). -/
def decodeFamilyF (w : Word) : Decoded :=
  match (fieldNN w).toNat with
  | 0x07 => .instr (.ldVxDt (fieldX w))
  | 0x15 => .instr (.ldDtVx (fieldX w))
  | 0x18 => .instr (.ldStVx (fieldX w))
  | 0x1E => .instr (.addIVx (fieldX w))
  | 0x29 => .instr (.ldFVx (fieldX w))
  | 0x33 => .instr (.ldBVx (fieldX w))
  | 0x55 => .instr (.ldMemVx (fieldX w))
  | 0x65 => .instr (.ldVxMem (fieldX w))
  | _ => .unknown .familyF

/-- The decode function of R305, total on all 65,536 words: dispatch on the family, then on the secondary selector. -/
def decodeWord (w : Word) : Decoded :=
  match (fieldF w).val with
  | 0x0 => decodeFamily0 w
  | 0x1 => .instr (.jp (fieldNNN w))
  | 0x2 => .instr (.call (fieldNNN w))
  | 0x3 => .instr (.seImm (fieldX w) (fieldNN w))
  | 0x4 => .instr (.sneImm (fieldX w) (fieldNN w))
  | 0x5 => decodeFamily5 w
  | 0x6 => .instr (.ldImm (fieldX w) (fieldNN w))
  | 0x7 => .instr (.addImm (fieldX w) (fieldNN w))
  | 0x8 => decodeFamily8 w
  | 0x9 => .unknown .family9
  | 0xA => .instr (.ldI (fieldNNN w))
  | 0xB => .unknown .familyB
  | 0xC => .unknown .familyC
  | 0xD => .instr (.drw (fieldX w) (fieldY w) (fieldN w))
  | 0xE => .unknown .familyE
  | _ => decodeFamilyF w -- 0xF, the one family left

/-- The word two bytes make, the first the more significant: big-endian (R221, R222). -/
def wordOfBytes (hi lo : Byte) : Word := hi ++ lo

/-- The more significant byte of a word, the one at the lower address (R221). -/
def highByte (w : Word) : Byte := w.extractLsb' 8 8

/-- The less significant byte of a word, the one at the higher address (R221). -/
def lowByte (w : Word) : Byte := w.extractLsb' 0 8

/-- Decode the head of any byte string: a decoder always takes exactly two bytes (R300), the rest is handed back. -/
def decodeBytes : List Byte → Decoded × List Byte
  | hi :: lo :: rest => (decodeWord (wordOfBytes hi lo), rest)
  | bytes => (.unknown .tooShort, bytes)

/-! ## Encode (R301, R307) -/

/-- A word of the form F NNN. -/
def packNNN (f : BitVec 4) (nnn : BitVec 12) : Word := f ++ nnn

/-- A word of the form F X NN. -/
def packXNN (f : BitVec 4) (x : Reg) (nn : Byte) : Word := f ++ BitVec.ofNat 4 x.val ++ nn

/-- A word of the form F X Y N. -/
def packXYN (f : BitVec 4) (x y : Reg) (n : BitVec 4) : Word :=
  f ++ BitVec.ofNat 4 x.val ++ BitVec.ofNat 4 y.val ++ n

/-- The word of an instruction, from the opcode map of R307. -/
def encode : Instr → Word
  | .cls => 0x00E0#16
  | .ret => 0x00EE#16
  | .jp nnn => packNNN 0x1#4 nnn
  | .call nnn => packNNN 0x2#4 nnn
  | .seImm x nn => packXNN 0x3#4 x nn
  | .sneImm x nn => packXNN 0x4#4 x nn
  | .seReg x y => packXYN 0x5#4 x y 0x0#4
  | .ldImm x nn => packXNN 0x6#4 x nn
  | .addImm x nn => packXNN 0x7#4 x nn
  | .ldReg x y => packXYN 0x8#4 x y 0x0#4
  | .or x y => packXYN 0x8#4 x y 0x1#4
  | .and x y => packXYN 0x8#4 x y 0x2#4
  | .xor x y => packXYN 0x8#4 x y 0x3#4
  | .addReg x y => packXYN 0x8#4 x y 0x4#4
  | .sub x y => packXYN 0x8#4 x y 0x5#4
  | .shr x y => packXYN 0x8#4 x y 0x6#4
  | .subn x y => packXYN 0x8#4 x y 0x7#4
  | .shl x y => packXYN 0x8#4 x y 0xE#4
  | .ldI nnn => packNNN 0xA#4 nnn
  | .drw x y n => packXYN 0xD#4 x y n
  | .ldVxDt x => packXNN 0xF#4 x 0x07#8
  | .ldDtVx x => packXNN 0xF#4 x 0x15#8
  | .ldStVx x => packXNN 0xF#4 x 0x18#8
  | .addIVx x => packXNN 0xF#4 x 0x1E#8
  | .ldFVx x => packXNN 0xF#4 x 0x29#8
  | .ldBVx x => packXNN 0xF#4 x 0x33#8
  | .ldMemVx x => packXNN 0xF#4 x 0x55#8
  | .ldVxMem x => packXNN 0xF#4 x 0x65#8

/-- The bytes of an instruction in memory, lowest address first (R222). -/
def encodeBytes (i : Instr) : List Byte := [highByte (encode i), lowByte (encode i)]

/-! ## The opcode map (R307) -/

/-- A row of the opcode map: a word `w` is the instruction `name` when `w & mask = match`. -/
structure OpcodeRow where
  name : String
  mask : Word
  matchBits : Word
  deriving DecidableEq, Repr

/-- R307's table, row by row. -/
def opcodeMap : List OpcodeRow :=
  [⟨"CLS", 0xFFFF#16, 0x00E0#16⟩, ⟨"RET", 0xFFFF#16, 0x00EE#16⟩,
   ⟨"JP", 0xF000#16, 0x1000#16⟩, ⟨"CALL", 0xF000#16, 0x2000#16⟩,
   ⟨"SE_IMM", 0xF000#16, 0x3000#16⟩, ⟨"SNE_IMM", 0xF000#16, 0x4000#16⟩, ⟨"SE_REG", 0xF00F#16, 0x5000#16⟩,
   ⟨"LD_IMM", 0xF000#16, 0x6000#16⟩, ⟨"ADD_IMM", 0xF000#16, 0x7000#16⟩] ++
  [⟨"LD_REG", 0xF00F#16, 0x8000#16⟩, ⟨"OR", 0xF00F#16, 0x8001#16⟩, ⟨"AND", 0xF00F#16, 0x8002#16⟩,
   ⟨"XOR", 0xF00F#16, 0x8003#16⟩, ⟨"ADD_REG", 0xF00F#16, 0x8004#16⟩, ⟨"SUB", 0xF00F#16, 0x8005#16⟩,
   ⟨"SHR", 0xF00F#16, 0x8006#16⟩, ⟨"SUBN", 0xF00F#16, 0x8007#16⟩, ⟨"SHL", 0xF00F#16, 0x800E#16⟩] ++
  [⟨"LD_I", 0xF000#16, 0xA000#16⟩, ⟨"DRW", 0xF000#16, 0xD000#16⟩,
   ⟨"LD_VX_DT", 0xF0FF#16, 0xF007#16⟩, ⟨"LD_DT_VX", 0xF0FF#16, 0xF015#16⟩, ⟨"LD_ST_VX", 0xF0FF#16, 0xF018#16⟩,
   ⟨"ADD_I_VX", 0xF0FF#16, 0xF01E#16⟩, ⟨"LD_F_VX", 0xF0FF#16, 0xF029#16⟩, ⟨"LD_B_VX", 0xF0FF#16, 0xF033#16⟩,
   ⟨"LD_MEM_VX", 0xF0FF#16, 0xF055#16⟩, ⟨"LD_VX_MEM", 0xF0FF#16, 0xF065#16⟩]

/-- Does the word match the row (R307)? -/
def OpcodeRow.matchesWord (row : OpcodeRow) (w : Word) : Bool := w &&& row.mask == row.matchBits

/-! ## The host's question -/

/-- The word an instruction of `nbits` table bits `w` has: the bits numbered as spec/opcode_table.json numbers them (bit 0
the least significant bit of the one word), every bit from `nbits` up 0. -/
def tableWord (nbits w : Nat) : Word := BitVec.ofNat 16 (w % 2 ^ nbits)

/-- The instruction the decoder reads from that word, laid out as the block stores it (R222). -/
def decodeTableWord (nbits w : Nat) : Option Instr :=
  match decodeBytes [highByte (tableWord nbits w), lowByte (tableWord nbits w)] with
  | (.instr i, _) => some i
  | (.unknown _, _) => none

end Sys2Proof
end

