-- ==== Sys2Proof/Config.lean ====
section
/-! DEFINITION. Config.lean: the implementation parameters of spec 00_scope R8, all fixed by the spec. The open ones are
no constants: FONT_IMAGE is an argument of `Sys2Proof.Machine.bootOps`, and STEP_RATE and TICK_RATE touch no rule. No
free value stands here, since spec 93 part 1 says that no behaviour of the block is `any value`. -/

namespace Sys2Proof

/-- The highest address, 0xFFF: MEM_SIZE is 4096 bytes (R8, R200). -/
@[simp] def Config.lastAddress : Nat := 0xFFF

/-- PROGRAM_BASE, the reset PC and the address LOAD copies to (R8, R117, R801). -/
@[simp] def Config.programBase : Nat := 0x200

/-- The last address of RESERVED_LOW, 0x000 to 0x1FF (R8, R201): the last one LOWMEM_WRITE may write (R763). -/
@[simp] def Config.reservedLowLast : Nat := 0x1FF

/-- MAX_ROM, 3584 bytes, the longest image LOAD takes (R8, R801, R802). -/
@[simp] def Config.maxRom : Nat := 3584

/-- STACK_DEPTH, 16 entries (R8, R107). -/
@[simp] def Config.stackDepth : Nat := 16

/-- INSN_BYTES, the bytes of an instruction and what a fetch adds to PC (R8, R300, R404). -/
@[simp] def Config.insnBytes : Nat := 2

/-- FONT_GLYPH_BYTES, the bytes of a glyph of the font table at FONT_BASE = 0x000 (R8, R204, R552). -/
@[simp] def Config.fontGlyphBytes : Nat := 5

end Sys2Proof
end

