-- ==== Sys2Proof/Machine/State.lean ====
section
/-! DEFINITION. Machine/State.lean: the whole state of the block (spec 10_state R100), as plain data, its reset value (R117),
and the reasons a step can have for giving no next state. -/

namespace Sys2Proof.Machine

/-- MEM (R100, R200): the (address, byte) pairs that differ from the reset contents, in the canonical form `Memory.wf`
of Machine/Ops.lean. Any other address holds `Memory.unlisted`. -/
abbrev Memory := List Host.Cell

/-- FB (R110): 32 rows of 64 one-bit cells, `true` meaning on. `FB[x][y]` is cell `x` of row `y` (row-major). -/
abbrev Framebuffer := Vector (Vector Bool 64) 32

/-- The codes a latched fatal error can have (R113, R700). -/
inductive FaultCode where
  /-- Code 2, raised by CALL with a full stack (R701). -/
  | stackOverflow
  /-- Code 3, raised by RET with an empty stack (R702). -/
  | stackUnderflow
  /-- Code 4, raised by a fetch, DRW, FX33, FX55 or FX65 at an address above 0xFFF (R703). -/
  | addressOutOfRange
  deriving DecidableEq, Repr

/-- The latched record of a fatal error, `{code, at, word}` (R113): `addr` is the spec's `at`, and `word` is absent for a
failed fetch. -/
structure FaultRecord where
  code : FaultCode
  addr : Word
  word : Option Word
  deriving DecidableEq, Repr

/-- The state of the block, item by item as R100 lists it; nothing else persists between operations. -/
structure State where
  /-- MEM[0..4095]. -/
  mem : Memory
  /-- V[0..15]; V[15] is also the flag register (R102, R103). -/
  v : Vector Byte 16
  /-- I, the index register (R106). -/
  ireg : Word
  /-- PC, the address of the next instruction to fetch (R105). -/
  pc : Word
  /-- STACK[0..15], the return addresses (R107). -/
  stack : Vector Word 16
  /-- SP, the number of return addresses on the stack, 0 to 16 (R108, R115). -/
  sp : Fin 17
  /-- DT, the delay timer (R109). -/
  dt : Byte
  /-- ST, the sound timer (R109). -/
  st : Byte
  /-- FB, the framebuffer (R110). -/
  fb : Framebuffer
  /-- KEY[0..15], the key states (R111). -/
  key : Vector Bool 16
  /-- REDRAW (R112). -/
  redraw : Bool
  /-- FAULT, the latched fatal error (R113). -/
  fault : Option FaultRecord
  /-- UNK_SEEN, the sticky mark of an unknown opcode (R114). -/
  unkSeen : Bool
  deriving DecidableEq, Repr

/-- The state after RESET, and at creation (R117, R800, R803). -/
def State.reset : State where
  mem := []
  v := .replicate 16 0x00#8
  ireg := 0x0000#16
  pc := 0x0200#16
  stack := .replicate 16 0x0000#16
  sp := 0
  dt := 0#8
  st := 0#8
  fb := .replicate 32 (.replicate 64 false)
  key := .replicate 16 false
  redraw := false
  fault := none
  unkSeen := false

/-- The reasons for a step to end without a next state by a fault of the machine. THERE IS NONE: the spec gives every error
of the block a next state (a fatal error latches FAULT, R711; a STEP of a halted block changes nothing, R713; an unknown
opcode sets UNK_SEEN, R712), so this type has no constructor and nobody raises it. Safe: no behaviour is cut off. -/
inductive Fault
  deriving DecidableEq, Repr

/-- The reasons for a step to end without a meaning. -/
inductive Refusal where
  /-- Raised only by an arm of `exec` whose instruction has no meaning yet; every arm has one, so nobody raises it.
  Safe: it would stop the model where the block goes on. -/
  | notModelled (mnemonic : String)
  deriving DecidableEq, Repr

/-- The outcome of a meaning or of a step. -/
abbrev StepOutcome := Host.Outcome State Fault Refusal

end Sys2Proof.Machine
end

