-- ==== Sys2Proof/Machine/Ops.lean ====
section
/-! DEFINITION. Machine/Ops.lean: the named operations over memory, registers, program counter, call stack and framebuffer,
the instruction fetch, and the ONE operation that takes an error (spec 10_state, 20_memory, 40_cycle, 60_exceptions).
Every read and write of State in a meaning goes through these. -/

namespace Sys2Proof.Machine

/-! ## Memory (R200, R210, R220, R224) -/

/-- What an address that is not listed holds: 0x00, its reset contents (R117). -/
def Memory.unlisted : Byte := 0x00#8

/-- The canonical form: addresses strictly rising, all of them in the address space (R200), and no entry equal to what an
unlisted address holds. -/
abbrev Memory.wf (m : Memory) : Prop :=
  m.Pairwise (fun c d => c.1 < d.1) ∧ ∀ c ∈ m, c.2 ≠ Memory.unlisted ∧ c.1 ≤ 0xFFF

/-- `MemRead(a, 1)` (R11, R224). Defined for `InRange a` only; every caller checks first (R210, R211). -/
def Memory.read : Memory → Nat → Byte
  | [], _ => Memory.unlisted
  | (b, u) :: rest, a => if b = a then u else Memory.read rest a

/-- The memory with the entry of address `a` taken out. -/
def Memory.erase (m : Memory) (a : Nat) : Memory := m.filter fun c => c.1 != a

/-- The memory with an entry for `a` put in where the addresses stay in order. -/
def Memory.insert : Memory → Nat → Byte → Memory
  | [], a, u => [(a, u)]
  | (b, t) :: rest, a, u => if a < b then (a, u) :: (b, t) :: rest else (b, t) :: Memory.insert rest a u

/-- `MemWrite(a, 1, u)` (R11, R224). Defined for `InRange a` only; every caller checks first (R210, R211). Writing what
an unlisted address holds takes the entry out, so that equal memories are equal data. -/
def Memory.write (m : Memory) (a : Nat) (u : Byte) : Memory :=
  if u = Memory.unlisted then Memory.erase m a else Memory.insert (Memory.erase m a) a u

/-- One byte write per address, in ascending address order (R220). -/
def Memory.writeBytes : Memory → Nat → List Byte → Memory
  | m, _, [] => m
  | m, a, u :: rest => Memory.writeBytes (Memory.write m a u) (a + 1) rest

/-- `InRange(a)`: the address exists (R210). Addresses are unbounded naturals and never wrap (R212). -/
abbrev inRange (a : Nat) : Prop := a ≤ Config.lastAddress

/-- Are the `count` addresses from `base` all in range? They are checked together, before any access; no address is checked
when `count` is 0 (R211). -/
abbrev rangeOk (base count : Nat) : Prop := count = 0 ∨ inRange (base + count - 1)

/-! ## General registers (R102) -/

/-- `V[r]`. -/
def State.reg (s : State) (r : Reg) : Byte := s.v[r]

/-- `V[r] <- b`. No register is hardwired (R102). -/
def State.setReg (s : State) (r : Reg) (b : Byte) : State := { s with v := s.v.set r b }

/-- VF, the register the flag outputs go to (R103). -/
abbrev vf : Reg := 15

/-! ## Index register and timers (R106, R109) -/

/-- `I <- w`. -/
def State.setIndex (s : State) (w : Word) : State := { s with ireg := w }

/-- `DT <- b`. -/
def State.setDelay (s : State) (b : Byte) : State := { s with dt := b }

/-- `ST <- b`. -/
def State.setSound (s : State) (b : Byte) : State := { s with st := b }

/-- `MEM <- m`. -/
def State.setMem (s : State) (m : Memory) : State := { s with mem := m }

/-! ## Program counter (R105, R404, R456) -/

/-- `PC <- target`. -/
def State.setPc (s : State) (target : Word) : State := { s with pc := target }

/-- `PC <- (PC + 2) mod 2^16`: the advance of the fetch (R404), and once more for a taken skip (R456). -/
def State.advance (s : State) : State := s.setPc (s.pc + BitVec.ofNat 16 Config.insnBytes)

/-- The address the instruction in execution was fetched from, `a` of the rules: PC holds `(a + 2) mod 2^16` during its
execution (R105, R404). -/
def State.insnAddr (s : State) : Word := s.pc - BitVec.ofNat 16 Config.insnBytes

/-! ## Call stack (R107, R108) -/

/-- Write `w` at `STACK[SP]`, then increment SP (R452); `none` when the stack is full. -/
def State.push (s : State) (w : Word) : Option State :=
  if h : s.sp.val < 16 then
    some { s with stack := s.stack.set s.sp.val w, sp := ⟨s.sp.val + 1, Nat.add_lt_add_right h 1⟩ }
  else none

/-- Decrement SP, then read `STACK[SP]` (R450): the entry and the state after; `none` when the stack is empty. The entry
is not cleared (R107). -/
def State.pop (s : State) : Option (Word × State) :=
  match s.sp with
  | ⟨0, _⟩ => none
  | ⟨k + 1, h⟩ => some (s.stack[k]'(Nat.lt_of_succ_lt_succ h), { s with sp := ⟨k, Nat.lt_of_succ_lt h⟩ })

/-! ## Framebuffer (R110) and redraw flag (R112) -/

/-- `FB[x][y]`. -/
def Framebuffer.get (f : Framebuffer) (x : Column) (y : Row) : Bool := (f[y])[x]

/-- `FB[x][y] <- b`. -/
def Framebuffer.set (f : Framebuffer) (x : Column) (y : Row) (b : Bool) : Framebuffer :=
  Vector.set f y.val (Vector.set f[y] x.val b)

/-- The framebuffer with all 2048 cells off (R600). -/
def Framebuffer.clear : Framebuffer := .replicate 32 (.replicate 64 false)

/-- Show a new framebuffer: every instruction that does so sets REDRAW, changed or not (R112, R600, R601). -/
def State.showFrame (s : State) (f : Framebuffer) : State := { s with fb := f, redraw := true }

/-! ## Fetch (R402, R221) -/

/-- The word at PC, big-endian, or `none` when one of its two addresses is out of range: `a + 1` is computed on unbounded
naturals (R212). The fetch changes nothing. -/
def State.fetchWord (s : State) : Option Word :=
  if inRange (s.pc.toNat + 1) then
    some (wordOfBytes (Memory.read s.mem s.pc.toNat) (Memory.read s.mem (s.pc.toNat + 1)))
  else none

/-! ## Errors (R711 to R716)

The block has no trap mechanism (R716): an error is taken by latching a record, and there is no saved state, handler or
return. Only RESET and a successful LOAD clear the latch (Machine/HostOps.lean). -/

/-- Take a fatal error (R711): latch `{code, at, word}`; nothing else changes. -/
def State.raiseFatal (s : State) (code : FaultCode) (addr : Word) (word : Option Word) : State :=
  { s with fault := some ⟨code, addr, word⟩ }

/-- Take a fatal error in the execution of `i` (R406, R711): `at` is the address it was fetched from, `word` its word, and
PC keeps the advance. -/
def State.raiseIn (s : State) (i : Instr) (code : FaultCode) : State :=
  s.raiseFatal code s.insnAddr (some (encode i))

/-- Take the non-fatal UnknownOpcode (R712): set UNK_SEEN; nothing else changes. -/
def State.raiseUnknown (s : State) : State := { s with unkSeen := true }

/-- What a STEP does while FAULT is latched: nothing (R401, R713). -/
def State.haltedStep (s : State) : State := s

/-- What a STEP does when its fetch is out of range: PC stays and there is no word (R402, R711). -/
def State.fetchFailure (s : State) : State := s.raiseFatal .addressOutOfRange s.pc none

end Sys2Proof.Machine
end

