-- ==== Sys2Proof/Machine/Flags.lean ====
section
/-! DEFINITION. Machine/Flags.lean: the flag outputs written to VF (spec 10_state R103, 42_alu R506 to R511). -/

namespace Sys2Proof.Machine

/-- A flag as the byte VF receives: 1 or 0. -/
def flagByte (b : Bool) : Byte := if b then 1#8 else 0#8

/-- `V[15] <- (if b then 1 else 0)`. -/
def State.setFlag (s : State) (b : Bool) : State := s.setReg vf (flagByte b)

/-- The unbounded sum of 8XY4, 0 to 510 (R506). -/
def sumOf (a b : Byte) : Nat := a.toNat + b.toNat

/-- The carry out of bit 7: `sum > 255` (R506). -/
def carryOut (sum : Nat) : Bool := decide (sum > 255)

/-- The flag of 8XY5 and 8XY7: 1 on a strictly positive difference, 0 on equality or borrow (R507, R509, R511; the value
STRICT of SUB_FLAG_RULE, the only one spec 93 U6 admits). -/
def strictlyAbove (a b : Byte) : Bool := decide (a.toNat > b.toNat)

/-- The bit a right shift by one moves out, bit 0 (R508). -/
def bitOutRight (a : Byte) : Bool := a.getLsbD 0

/-- The bit a left shift by one moves out, bit 7 (R510). -/
def bitOutLeft (a : Byte) : Bool := a.getLsbD 7

end Sys2Proof.Machine
end

