-- ==== Sys2Proof/Machine/Alu.lean ====
section
/-! DEFINITION. Machine/Alu.lean: register loads and the ALU (spec 42_alu R500 to R511). Statements run in the written order
and a later one reads what an earlier one wrote, VF included (R403). -/

namespace Sys2Proof.Machine

/-- 6XNN (R500). -/
def execLdImm (x : Reg) (nn : Byte) (s : State) : StepOutcome := .next (s.setReg x nn)

/-- 7XNN, modulo 256 and no flag (R501). -/
def execAddImm (x : Reg) (nn : Byte) (s : State) : StepOutcome := .next (s.setReg x (s.reg x + nn))

/-- 8XY0 (R502). -/
def execLdReg (x y : Reg) (s : State) : StepOutcome := .next (s.setReg x (s.reg y))

/-- 8XY1 (R503). -/
def execOr (x y : Reg) (s : State) : StepOutcome := .next (s.setReg x (s.reg x ||| s.reg y))

/-- 8XY2 (R504). -/
def execAnd (x y : Reg) (s : State) : StepOutcome := .next (s.setReg x (s.reg x &&& s.reg y))

/-- 8XY3 (R505). -/
def execXor (x y : Reg) (s : State) : StepOutcome := .next (s.setReg x (s.reg x ^^^ s.reg y))

/-- 8XY4: the sum is latched before VF is written (R506). -/
def execAddReg (x y : Reg) (s : State) : StepOutcome :=
  let sum := sumOf (s.reg x) (s.reg y)
  .next ((s.setFlag (carryOut sum)).setReg x (BitVec.ofNat 8 sum))

/-- 8XY5: the difference reads V[x] and V[y] after the VF write (R507). -/
def execSub (x y : Reg) (s : State) : StepOutcome :=
  let t := s.setFlag (strictlyAbove (s.reg x) (s.reg y))
  .next (t.setReg x (t.reg x - t.reg y))

/-- 8XY6: the shift reads V[x] after the VF write; `y` is ignored (R508, R308). -/
def execShr (x _y : Reg) (s : State) : StepOutcome :=
  let t := s.setFlag (bitOutRight (s.reg x))
  .next (t.setReg x (t.reg x >>> 1))

/-- 8XY7: the difference reads V[x] and V[y] after the VF write (R509). -/
def execSubn (x y : Reg) (s : State) : StepOutcome :=
  let t := s.setFlag (strictlyAbove (s.reg y) (s.reg x))
  .next (t.setReg x (t.reg y - t.reg x))

/-- 8XYE: the shift reads V[x] after the VF write; `y` is ignored (R510, R308). -/
def execShl (x _y : Reg) (s : State) : StepOutcome :=
  let t := s.setFlag (bitOutLeft (s.reg x))
  .next (t.setReg x (t.reg x <<< 1))

end Sys2Proof.Machine
end

