-- ==== Sys2Proof/Machine/Operands.lean ====
section
/-! DEFINITION. Machine/Operands.lean: the operand forms and addressing modes of spec 30_encoding R303 and 43_index_memory
R552, R553, R556, and the wrap-around addressing of 44_display R602. -/

namespace Sys2Proof.Machine

/-- The absolute 12-bit address `zext_16(nnn)` (R303, R556 a). -/
def absolute (nnn : BitVec 12) : Word := nnn.setWidth 16

/-- The index-relative address `I + k`, an unbounded natural (R212, R556 b). -/
def State.indexAddr (s : State) (k : Nat) : Nat := s.ireg.toNat + k

/-- May the instruction touch the `count` bytes from `I` (R211)? -/
abbrev State.indexRangeOk (s : State) (count : Nat) : Prop := rangeOk s.ireg.toNat count

/-- The number of registers FX55 and FX65 copy, `x + 1` (R303, R554, R555). -/
def blockCount (x : Reg) : Nat := x.val + 1

/-- The address of glyph `d`: `d * 5` on the whole byte, 0 to 1275 (R204, R552). -/
def glyphAddr (d : Byte) : Word := BitVec.ofNat 16 (d.toNat * Config.fontGlyphBytes)

/-- The decimal digits of a byte, hundreds first (R553). -/
def bcdDigits (b : Byte) : List Byte :=
  [BitVec.ofNat 8 (b.toNat / 100), BitVec.ofNat 8 (b.toNat / 10 % 10), BitVec.ofNat 8 (b.toNat % 10)]

/-- The column of sprite column `c` drawn from `cx`: `(cx + c) mod 64` (R602). -/
def spriteColumn (cx : Byte) (c : Nat) : Column := Fin.ofNat 64 (cx.toNat + c)

/-- The row of sprite row `r` drawn from `cy`: `(cy + r) mod 32` (R602). -/
def spriteRow (cy : Byte) (r : Nat) : Row := Fin.ofNat 32 (cy.toNat + r)

/-- Is sprite bit `c` of a row byte set? `c = 0` is bit 7, the leftmost (R601, R604). -/
def spriteBit (row : Byte) (c : Nat) : Bool := row.getLsbD (7 - c)

end Sys2Proof.Machine
end

