-- ==== Sys2Proof/Machine/Control.lean ====
section
/-! DEFINITION. Machine/Control.lean: control transfer (spec 41_control_flow R450 to R457). A meaning runs in the state after
the fetch advance, so PC is `a + 2` on entry (R404). -/

namespace Sys2Proof.Machine

/-- 00EE (R450). -/
def execRet (s : State) : StepOutcome :=
  match s.pop with
  | none => .next (s.raiseIn .ret .stackUnderflow)
  | some (target, t) => .next (t.setPc target)

/-- 1NNN (R451). -/
def execJp (nnn : BitVec 12) (s : State) : StepOutcome := .next (s.setPc (absolute nnn))

/-- 2NNN (R452). -/
def execCall (nnn : BitVec 12) (s : State) : StepOutcome :=
  match s.push s.pc with
  | none => .next (s.raiseIn (.call nnn) .stackOverflow)
  | some t => .next (t.setPc (absolute nnn))

/-- Skip the next instruction if the condition holds: one more advance (R456). -/
def State.skipIf (s : State) (cond : Bool) : State := if cond then s.advance else s

/-- 3XNN (R453). -/
def execSeImm (x : Reg) (nn : Byte) (s : State) : StepOutcome := .next (s.skipIf (s.reg x == nn))

/-- 4XNN (R454). -/
def execSneImm (x : Reg) (nn : Byte) (s : State) : StepOutcome := .next (s.skipIf (s.reg x != nn))

/-- 5XY0 (R455). -/
def execSeReg (x y : Reg) (s : State) : StepOutcome := .next (s.skipIf (s.reg x == s.reg y))

end Sys2Proof.Machine
end

