-- ==== Sys2Proof/Machine/Display.lean ====
section
/-! DEFINITION. Machine/Display.lean: the display instructions, the sprite engine and its XOR collision unit (spec 44_display
R600 to R605). -/

namespace Sys2Proof.Machine

/-- What the sprite engine works on: the framebuffer, and whether a set bit has met a lit pixel so far. -/
structure Canvas where
  fb : Framebuffer
  hit : Bool
  deriving DecidableEq, Repr

/-- One set sprite bit (R603): the old cell value joins the collision output, and the cell is turned over. -/
def Canvas.togglePixel (c : Canvas) (x : Column) (y : Row) : Canvas :=
  ⟨Framebuffer.set c.fb x y (!Framebuffer.get c.fb x y), c.hit || Framebuffer.get c.fb x y⟩

/-- The first `count` columns of one sprite row, left to right (R601). -/
def Canvas.drawRow (row : Byte) (cx : Byte) (y : Row) : Nat → Canvas → Canvas
  | 0, c => c
  | k + 1, c =>
    let d := Canvas.drawRow row cx y k c
    if spriteBit row k then d.togglePixel (spriteColumn cx k) y else d

/-- The first `count` rows of the sprite whose row `r` is the byte `rows r`, top to bottom (R601, R604). -/
def Canvas.drawSprite (rows : Nat → Byte) (cx cy : Byte) : Nat → Canvas → Canvas
  | 0, c => c
  | r + 1, c => Canvas.drawRow (rows r) cx (spriteRow cy r) 8 (Canvas.drawSprite rows cx cy r c)

/-- 00E0 (R600). -/
def execCls (s : State) : StepOutcome := .next (s.showFrame Framebuffer.clear)

/-- DXYN (R601): the coordinates are read before VF is cleared, and VF ends as the collision output. -/
def execDrw (x y : Reg) (n : BitVec 4) (s : State) : StepOutcome :=
  if s.indexRangeOk n.toNat then
    let c := Canvas.drawSprite (fun r => Memory.read s.mem (s.indexAddr r)) (s.reg x) (s.reg y) n.toNat ⟨s.fb, false⟩
    .next ((s.setFlag c.hit).showFrame c.fb)
  else .next (s.raiseIn (.drw x y n) .addressOutOfRange)

end Sys2Proof.Machine
end

