-- ==== Sys2Proof/Machine/Index.lean ====
section
/-! DEFINITION. Machine/Index.lean: the index register and the memory access instructions (spec 43_index_memory R550 to R556).
Every address is checked before any access (R211), and I is unchanged by an access (R556). -/

namespace Sys2Proof.Machine

/-- ANNN (R550). -/
def execLdI (nnn : BitVec 12) (s : State) : StepOutcome := .next (s.setIndex (absolute nnn))

/-- FX1E, modulo 2^16 and no flag (R551). -/
def execAddIVx (x : Reg) (s : State) : StepOutcome := .next (s.setIndex (s.ireg + (s.reg x).setWidth 16))

/-- FX29, on the whole byte (R552). -/
def execLdFVx (x : Reg) (s : State) : StepOutcome := .next (s.setIndex (glyphAddr (s.reg x)))

/-- FX33 (R553). -/
def execLdBVx (x : Reg) (s : State) : StepOutcome :=
  if s.indexRangeOk 3 then .next (s.setMem (Memory.writeBytes s.mem (s.indexAddr 0) (bcdDigits (s.reg x))))
  else .next (s.raiseIn (.ldBVx x) .addressOutOfRange)

/-- FX55: `MEM[I + k] <- V[k]` for k = 0 to x (R554). -/
def execLdMemVx (x : Reg) (s : State) : StepOutcome :=
  if s.indexRangeOk (blockCount x) then
    .next (s.setMem (Memory.writeBytes s.mem (s.indexAddr 0) (s.v.toList.take (blockCount x))))
  else .next (s.raiseIn (.ldMemVx x) .addressOutOfRange)

/-- `V[k] <- MEM[I + k]` for the first `count` values of k, ascending (R555). -/
def loadRegs : Nat → State → State
  | 0, s => s
  | k + 1, s => (loadRegs k s).setReg (Fin.ofNat 16 k) (Memory.read s.mem (s.indexAddr k))

/-- FX65 (R555). -/
def execLdVxMem (x : Reg) (s : State) : StepOutcome :=
  if s.indexRangeOk (blockCount x) then .next (loadRegs (blockCount x) s)
  else .next (s.raiseIn (.ldVxMem x) .addressOutOfRange)

end Sys2Proof.Machine
end

