-- ==== Sys2Proof/Machine/Timers.lean ====
section
/-! DEFINITION. Machine/Timers.lean: the timer instructions (spec 45_timers R650 to R653). None of them counts a timer down:
that is TICK, in Machine/HostOps.lean. -/

namespace Sys2Proof.Machine

/-- FX07 (R650). -/
def execLdVxDt (x : Reg) (s : State) : StepOutcome := .next (s.setReg x s.dt)

/-- FX15 (R651). -/
def execLdDtVx (x : Reg) (s : State) : StepOutcome := .next (s.setDelay (s.reg x))

/-- FX18 (R652). -/
def execLdStVx (x : Reg) (s : State) : StepOutcome := .next (s.setSound (s.reg x))

end Sys2Proof.Machine
end

