-- ==== Sys2Proof/Machine/Step.lean ====
section
/-! DEFINITION. Machine/Step.lean: the STEP operation (spec 40_cycle R400), its effect on the state. Its result record is
`stepResult` of Machine/HostOps.lean (R407: an output, not state). -/

namespace Sys2Proof.Machine

/-- STEP (R400), line by line: halted (R401), fetch (R402), advance (R404), decode (R405), UNKNOWN (R712), execute (R403). -/
def step (s : State) : Host.Outcome State Fault Refusal :=
  match s.fault with
  | some _ => .next s.haltedStep
  | none =>
    match s.fetchWord with
    | none => .next s.fetchFailure
    | some w =>
      match decodeWord w with
      | .unknown _ => .next s.advance.raiseUnknown
      | .instr i => exec i s.advance

/-- The state with the word of `nbits` table bits `w` stored where `step` fetches its next instruction (R221): at PC, where
PC can be fetched from. What else the fetch needs is given it: no latched fault (R401), and a PC in range (R402), which
is set to the program base where it was not. At reset only the two bytes are written. -/
def State.withFetchWord (s : State) (nbits w : Nat) : State :=
  let a : Word := if inRange (s.pc.toNat + 1) then s.pc else BitVec.ofNat 16 Config.programBase
  { s with
    fault := none
    pc := a
    mem := Memory.writeBytes s.mem a.toNat [highByte (tableWord nbits w), lowByte (tableWord nbits w)] }

end Sys2Proof.Machine
end

