-- ==== Sys2Proof/Machine/HostOps.lean ====
section
/-! DEFINITION. Machine/HostOps.lean: the result record of STEP and the other seven operations of the host interface (spec
60_exceptions R700, R740, R741, R745, R760 to R767; 70_reset_and_hazards R800 to R804). -/

namespace Sys2Proof.Machine

/-! ## Result codes (R700) -/

/-- The result codes of R700. -/
inductive ResultCode where
  | ok
  | unknownOpcode
  | stackOverflow
  | stackUnderflow
  | addressOutOfRange
  | halted
  | romTooLarge
  deriving DecidableEq, Repr

/-- The number of a result code (R700). -/
def ResultCode.number : ResultCode → Nat
  | .ok => 0
  | .unknownOpcode => 1
  | .stackOverflow => 2
  | .stackUnderflow => 3
  | .addressOutOfRange => 4
  | .halted => 5
  | .romTooLarge => 6

/-- The result code a fatal error is returned with (R711). -/
def FaultCode.result : FaultCode → ResultCode
  | .stackOverflow => .stackOverflow
  | .stackUnderflow => .stackUnderflow
  | .addressOutOfRange => .addressOutOfRange

/-- Is the error fatal, that is latched (R700)? -/
def ResultCode.fatal : ResultCode → Bool
  | .stackOverflow | .stackUnderflow | .addressOutOfRange => true
  | .ok | .unknownOpcode | .halted | .romTooLarge => false

/-- The result record of a STEP, `{code, at, word}` (R407, R710); a HALTED one also carries the latched record. -/
structure StepResult where
  code : ResultCode
  addr : Word
  word : Option Word
  latched : Option FaultRecord
  deriving DecidableEq, Repr

/-- The record the STEP from `s` to `t` returns (R400, R407, R711 to R714). -/
def stepResult (s t : State) : StepResult :=
  match s.fault with
  | some f => ⟨.halted, s.pc, none, some f⟩
  | none =>
    match s.fetchWord with
    | none => ⟨.addressOutOfRange, s.pc, none, none⟩
    | some w =>
      match decodeWord w with
      | .unknown _ => ⟨.unknownOpcode, s.pc, some w, none⟩
      | .instr _ =>
        match t.fault with
        | none => ⟨.ok, s.pc, some w, none⟩
        | some f => ⟨f.code.result, s.pc, some w, none⟩

/-! ## Timers (R740, R741) -/

/-- A timer after a tick: one less while nonzero, and 0 stays 0 (R740). -/
def countDown (b : Byte) : Byte := if b.toNat > 0 then b - 1#8 else b

/-- TICK (R740). It runs while FAULT is latched too. -/
def tick (s : State) : State := (s.setDelay (countDown s.dt)).setSound (countDown s.st)

/-- SOUND_ON = (ST != 0) (R741). -/
def soundOn (s : State) : Bool := s.st != 0#8

/-! ## Reset and load (R800 to R803) -/

/-- RESET (R800): whatever the state was, every item at its reset value. -/
def resetOp (_s : State) : State := State.reset

/-- The result of a LOAD (R801): OK, or ROM_TOO_LARGE with the image length (R700). -/
inductive LoadResult where
  | ok
  | romTooLarge (length : Nat)
  deriving DecidableEq, Repr

/-- The result code of a LOAD (R700). -/
def LoadResult.code : LoadResult → ResultCode
  | .ok => .ok
  | .romTooLarge _ => .romTooLarge

/-- LOAD(rom) (R801): the length is checked first; a refused image changes nothing. -/
def load (rom : List Byte) (s : State) : State × LoadResult :=
  if rom.length > Config.maxRom then (s, .romTooLarge rom.length)
  else
    let t := resetOp s
    (t.setMem (Memory.writeBytes t.mem Config.programBase rom), .ok)

/-! ## Setters and observation (R761 to R764, R745) -/

/-- SET_KEYS(k) (R761). -/
def setKeys (k : Vector Bool 16) (s : State) : State := { s with key := k }

/-- ACK_REDRAW() (R762). -/
def ackRedraw (s : State) : State := { s with redraw := false }

/-- The result of a LOWMEM_WRITE (R763). -/
inductive LowmemResult where
  | ok
  | refused
  deriving DecidableEq, Repr

/-- LOWMEM_WRITE(addr, bytes) (R763): within 0x000 to 0x1FF and at least one byte, or refused whole. -/
def lowmemWrite (addr : Nat) (bytes : List Byte) (s : State) : State × LowmemResult :=
  if bytes.length ≥ 1 ∧ addr + bytes.length - 1 ≤ Config.reservedLowLast then
    (s.setMem (Memory.writeBytes s.mem addr bytes), .ok)
  else (s, .refused)

/-- The framebuffer export: 2048 booleans, element `y * 64 + x` being `FB[x][y]` (R110, R745). -/
def framebufferExport (s : State) : List Bool := s.fb.toList.flatMap Vector.toList

/-- What OBSERVE returns: every item of the state record, and SOUND_ON (R764). -/
structure Observation where
  state : State
  soundOn : Bool
  deriving DecidableEq, Repr

/-- OBSERVE() (R764). -/
def observe (s : State) : Observation := ⟨s, soundOn s⟩

/-! ## The whole interface (R760, R765) -/

/-- The block's operations, which are its whole interface (R760). -/
inductive Operation where
  | step
  | tick
  | reset
  | load (rom : List Byte)
  | setKeys (k : Vector Bool 16)
  | ackRedraw
  | lowmemWrite (addr : Nat) (bytes : List Byte)
  | observe
  deriving DecidableEq, Repr

/-- What an operation returns (R760). -/
inductive OperationResult where
  | none
  | step (r : StepResult)
  | load (r : LoadResult)
  | lowmem (r : LowmemResult)
  | observe (o : Observation)
  deriving DecidableEq, Repr

/-- Perform one operation, atomically (R765): the state after it and its result. -/
def perform (op : Operation) (s : State) : Host.Outcome (State × OperationResult) Fault Refusal :=
  match op with
  | .step =>
    match Sys2Proof.Machine.step s with
    | .next t => .next (t, .step (stepResult s t))
    | .fault r => .fault r
    | .refused r => .refused r
  | .tick => .next (Sys2Proof.Machine.tick s, .none)
  | .reset => .next (resetOp s, .none)
  | .load rom => .next ((Sys2Proof.Machine.load rom s).1, .load (Sys2Proof.Machine.load rom s).2)
  | .setKeys k => .next (Sys2Proof.Machine.setKeys k s, .none)
  | .ackRedraw => .next (Sys2Proof.Machine.ackRedraw s, .none)
  | .lowmemWrite addr bytes =>
    .next ((Sys2Proof.Machine.lowmemWrite addr bytes s).1, .lowmem (Sys2Proof.Machine.lowmemWrite addr bytes s).2)
  | .observe => .next (s, .observe (Sys2Proof.Machine.observe s))

/-- Perform operations one after another, in the order the host chooses (R765), keeping the last state. -/
def performAll : List Operation → State → Host.Outcome State Fault Refusal
  | [], s => .next s
  | op :: rest, s =>
    match perform op s with
    | .next (t, _) => performAll rest t
    | .fault r => .fault r
    | .refused r => .refused r

/-- The boot sequence before the first STEP (R804): LOAD, then the font (FONT_IMAGE, open, R8; not written where it is
empty), then the keys. -/
def bootOps (rom font : List Byte) (k : Vector Bool 16) : List Operation :=
  [.load rom] ++ (if font.isEmpty then [] else [.lowmemWrite 0 font]) ++ [.setKeys k]

end Sys2Proof.Machine
end

