-- ==== Sys2Proof/Safety.lean ====
section
/-! DEFINITION. Safety.lean: the terms claims are stated in: what an instruction leaves unchanged, what counts as an end of a
run (spec 70_reset_and_hazards R809), and the invariant of the reachable states (spec 10_state R118). -/

namespace Sys2Proof.Machine

/-! ## Frames -/

/-- The items of State other than the registers V and the memory, which have frames of their own (R100). -/
inductive Item where
  | ireg | pc | stack | sp | dt | st | fb | key | redraw | fault | unkSeen
  deriving DecidableEq, Repr

/-- The item has the same value in both states. -/
def Item.same : Item → State → State → Prop
  | .ireg, s, t => t.ireg = s.ireg
  | .pc, s, t => t.pc = s.pc
  | .stack, s, t => t.stack = s.stack
  | .sp, s, t => t.sp = s.sp
  | .dt, s, t => t.dt = s.dt
  | .st, s, t => t.st = s.st
  | .fb, s, t => t.fb = s.fb
  | .key, s, t => t.key = s.key
  | .redraw, s, t => t.redraw = s.redraw
  | .fault, s, t => t.fault = s.fault
  | .unkSeen, s, t => t.unkSeen = s.unkSeen

/-- No address: what an instruction that stores nothing stores to. -/
def nowhere : Nat → Prop := fun _ => False

/-- The `count` addresses from `base`. -/
def bytesFrom (base count : Nat) : Nat → Prop := fun a => base ≤ a ∧ a < base + count

/-- From `s` to `t` nothing changes but the listed items, the listed registers and the bytes at the stored addresses:
every other item, every other register and every other byte of memory reads as before. -/
def Frame (items : List Item) (regs : List Reg) (stored : Nat → Prop) (s t : State) : Prop :=
  (∀ x, x ∉ items → x.same s t) ∧ (∀ r, r ∉ regs → t.reg r = s.reg r) ∧
    ∀ a, ¬ stored a → Memory.read t.mem a = Memory.read s.mem a

/-- The registers `V[0]` to `V[x]`, the destinations of FX65 (R555). -/
def regsUpTo (x : Reg) : List Reg := (List.finRange 16).filter fun r => decide (r ≤ x)

/-- The registers an instruction names as its destination (R103: `x`, or V[0] to V[x] for FX65). -/
def namedDestinations : Instr → List Reg
  | .ldImm x _ | .addImm x _ | .ldReg x _ | .or x _ | .and x _ | .xor x _ | .addReg x _ | .sub x _ | .shr x _
  | .subn x _ | .shl x _ | .ldVxDt x => [x]
  | .ldVxMem x => regsUpTo x
  | .cls | .ret | .jp _ | .call _ | .seImm _ _ | .sneImm _ _ | .seReg _ _ | .ldI _ | .drw _ _ _ | .ldDtVx _
  | .ldStVx _ | .addIVx _ | .ldFVx _ | .ldBVx _ | .ldMemVx _ => []

/-- Executing `i` in `s` takes the fatal error `code` and does nothing else (R711): the instruction, fetched from `a`, latches
`{code, at: a, word}`, and PC keeps the advance `a + 2`. -/
def TakesFatal (i : Instr) (code : FaultCode) (s : State) : Prop :=
  ∀ a : Word, s.pc = a + 2#16 → exec i s = .next { s with fault := some ⟨code, a, some (encode i)⟩ }

/-- Every word that matches the row decodes to the instruction with the operands its fields hold (R302, R307). -/
def EncodedAs (mask matchBits : Word) (make : Word → Instr) : Prop :=
  ∀ w : Word, w &&& mask = matchBits → decodeWord w = .instr (make w)

/-- A fetch from any PC in range reads the two bytes there, big-endian, and each byte read is one that `byteAt` allows at its
address (R402, R221). -/
def FetchesFrom (t : State) (byteAt : Nat → Byte → Prop) : Prop :=
  ∀ p : Word, p.toNat ≤ 0xFFE → ∃ hi lo, ({ t with pc := p } : State).fetchWord = some (wordOfBytes hi lo) ∧
    byteAt p.toNat hi ∧ byteAt (p.toNat + 1) lo

/-! ## What a STEP does to PC, and its error (R410, R714) -/

/-- The row of R410's table for an instruction fetched from `a = PC` of `s`: PC after the STEP. -/
def pcAfter (i : Instr) (s : State) : Word :=
  match i with
  | .jp nnn => nnn.setWidth 16
  | .call nnn => if s.sp.val < 16 then nnn.setWidth 16 else s.pc + 2#16
  | .ret =>
    if 0 < s.sp.val then s.stack[s.sp.val - 1]'(by have := s.sp.isLt; omega) else s.pc + 2#16
  | .seImm x nn => if s.reg x = nn then s.pc + 4#16 else s.pc + 2#16
  | .sneImm x nn => if s.reg x ≠ nn then s.pc + 4#16 else s.pc + 2#16
  | .seReg x y => if s.reg x = s.reg y then s.pc + 4#16 else s.pc + 2#16
  | .cls | .drw _ _ _ | .ldImm _ _ | .addImm _ _ | .ldReg _ _ | .or _ _ | .and _ _ | .xor _ _ | .addReg _ _ | .sub _ _
  | .shr _ _ | .subn _ _ | .shl _ _ | .ldI _ | .ldVxDt _ | .ldDtVx _ | .ldStVx _ | .addIVx _ | .ldFVx _ | .ldBVx _
  | .ldMemVx _ | .ldVxMem _ => s.pc + 2#16

/-- The result code of executing an instruction in `s`: the one error it can raise, where its condition holds (R700, R714). -/
def executionCode (i : Instr) (s : State) : ResultCode :=
  match i with
  | .call _ => if s.sp.val = 16 then .stackOverflow else .ok
  | .ret => if s.sp.val = 0 then .stackUnderflow else .ok
  | .drw _ _ n => if n.toNat = 0 ∨ s.ireg.toNat + n.toNat - 1 ≤ 0xFFF then .ok else .addressOutOfRange
  | .ldBVx _ => if s.ireg.toNat + 2 ≤ 0xFFF then .ok else .addressOutOfRange
  | .ldMemVx x => if s.ireg.toNat + x.val ≤ 0xFFF then .ok else .addressOutOfRange
  | .ldVxMem x => if s.ireg.toNat + x.val ≤ 0xFFF then .ok else .addressOutOfRange
  | .cls | .jp _ | .seImm _ _ | .sneImm _ _ | .seReg _ _ | .ldImm _ _ | .addImm _ _ | .ldReg _ _ | .or _ _ | .and _ _
  | .xor _ _ | .addReg _ _ | .sub _ _ | .shr _ _ | .subn _ _ | .shl _ _ | .ldI _ | .ldVxDt _ | .ldDtVx _ | .ldStVx _
  | .addIVx _ | .ldFVx _ => .ok

/-! ## Sprites (R601 to R604) -/

/-- A set bit of the sprite of `n` rows, whose row `r` is the byte `rows r`, falls on the cell at column `px` and row `py`: bit
`c` from the left of row `r` lands on column `(cx + c) mod 64` and row `(cy + r) mod 32` (R602, R604). -/
def SpriteCovers (rows : Nat → Byte) (cx cy : Byte) (n : Nat) (px : Column) (py : Row) : Prop :=
  ∃ r c, r < n ∧ c < 8 ∧ (rows r).getLsbD (7 - c) = true ∧
    px.val = (cx.toNat + c) % 64 ∧ py.val = (cy.toNat + r) % 32

/-- Row `r` of the sprite at I: the byte `MEM[I + r]` (R604). -/
def State.spriteRows (s : State) : Nat → Byte := fun r => Memory.read s.mem (s.ireg.toNat + r)

/-! ## What a program can see (R116) -/

/-- The two states agree on everything a program can observe: they may differ in ST, KEY, REDRAW and UNK_SEEN, which no
instruction reads, and in the stack entries at and above SP, which a call writes before a return reads (R116, R107). -/
structure SameToProgram (s t : State) : Prop where
  mem : t.mem = s.mem
  v : t.v = s.v
  ireg : t.ireg = s.ireg
  pc : t.pc = s.pc
  sp : t.sp = s.sp
  stack : ∀ k : Fin 16, k.val < s.sp.val → t.stack[k] = s.stack[k]
  dt : t.dt = s.dt
  fb : t.fb = s.fb
  fault : t.fault = s.fault

/-! ## Ends of a run (R809) -/

/-- How far a run has come. -/
inductive RunEnd where
  /-- No end yet. -/
  | running
  /-- End (a): FAULT is latched. Never final. -/
  | faulted
  /-- End (b) with UNK_SEEN = 0: the one end a postcondition is read at. -/
  | normal
  /-- End (b) with UNK_SEEN = 1. Never final. -/
  | unknownOpcode
  deriving DecidableEq, Repr

/-- The word at PC is `JP PC`, a self-loop (R409, R809 b). -/
def selfLoop (s : State) : Bool := s.fetchWord == some (0x1000#16 ||| s.pc)

/-- The end of a run a state is (R809). -/
def runEnd (s : State) : RunEnd :=
  match s.fault with
  | some _ => .faulted
  | none =>
    if selfLoop s then (if s.unkSeen then .unknownOpcode else .normal) else .running

/-- A safe run: one that has come to no faulted and no unknown-opcode end so far (R809). -/
def safeSoFar (s : State) : Bool := s.fault.isNone && !s.unkSeen

/-! ## The invariant (R118) -/

/-- The one fatal error an instruction can raise in its execution, if any (R714). -/
def executionError : Instr → Option FaultCode
  | .call _ => some .stackOverflow
  | .ret => some .stackUnderflow
  | .drw _ _ _ | .ldBVx _ | .ldMemVx _ | .ldVxMem _ => some .addressOutOfRange
  | .cls | .jp _ | .seImm _ _ | .sneImm _ _ | .seReg _ _ | .ldImm _ _ | .addImm _ _ | .ldReg _ _ | .or _ _ | .and _ _
  | .xor _ _ | .addReg _ _ | .sub _ _ | .shr _ _ | .subn _ _ | .shl _ _ | .ldI _ | .ldVxDt _ | .ldDtVx _ | .ldStVx _
  | .addIVx _ | .ldFVx _ => none

/-- What a latched record says about the halted state (R113, R701, R702, R711, R713): a failed fetch has no word and its
address is PC; an execution error names an instruction that can raise it, fetched two bytes below PC from addresses in
range; a stack error leaves the stack full or empty. -/
def FaultConsistent (s : State) : Prop :=
  ∀ f, s.fault = some f →
    (f.word = none → f.code = .addressOutOfRange ∧ f.addr = s.pc ∧ ¬ inRange (s.pc.toNat + 1)) ∧
    (∀ w, f.word = some w → s.pc = f.addr + 2#16 ∧ inRange (f.addr.toNat + 1) ∧
      ∃ i, decodeWord w = .instr i ∧ executionError i = some f.code) ∧
    (f.code = .stackOverflow → s.sp.val = 16) ∧ (f.code = .stackUnderflow → s.sp.val = 0)

/-- The invariant of every state reached from RESET or LOAD: memory is in canonical form within the address space, PC is at
most 0x1002, every stack entry at most 0x1000, and a latched record agrees with the state. -/
structure Inv (s : State) : Prop where
  mem_wf : Memory.wf s.mem
  pc_le : s.pc.toNat ≤ 0x1002
  stack_le : ∀ k : Fin 16, (s.stack[k]).toNat ≤ 0x1000
  fault_consistent : FaultConsistent s

end Sys2Proof.Machine
end

