-- ==== Sys2Proof/Certificates/Slice0/Obligations.lean ====
section
/-! DEFINITION. Certificates/Slice0/Obligations.lean: the statements for the provers, from the numbered rules of spec/. `exec`
runs in the state after the fetch advance (R404), so PC is `a + 2` there, `a` being the address of the instruction; the
statements about `step` and `perform` start before the fetch. -/

open Sys2Proof Sys2Proof.Machine

/-! ## Encoding -/

/-- Decoding the word of a well-formed instruction gives it back, every operand at every value (R305, R307). -/
def Obligations.DecodeOfEncodeIsIdentity : Prop :=
  ∀ i : Instr, i.wellFormed = true → decodeWord (encode i) = .instr i

/-- Each word has one meaning: encoding the instruction a word decodes to gives the word back, the ignored `y` of SHR and SHL
included (R305, R308). -/
def Obligations.EncodeOfDecodeIsWord : Prop :=
  ∀ (w : Word) (i : Instr), decodeWord w = .instr i → encode i = w

/-- The dispatch of R305 and the mask and match of R307 say the same: a word is the instruction of a row exactly when
`w & mask = match`. -/
def Obligations.DecodeAgreesWithOpcodeMap : Prop :=
  ∀ w : Word, ∀ row ∈ opcodeMap,
    (∃ i, decodeWord w = .instr i ∧ i.mnemonic = row.name) ↔ w &&& row.mask = row.matchBits

/-- The 28 match patterns are pairwise disjoint (R306, which the spec derives from R305). -/
def Obligations.NoWordMatchesTwoRows : Prop :=
  opcodeMap.length = 28 ∧ ∀ w : Word, ∀ r ∈ opcodeMap, ∀ q ∈ opcodeMap,
    w &&& r.mask = r.matchBits → w &&& q.mask = q.matchBits → r = q

/-- The unknown space is R309's table, row by row. -/
def Obligations.UnknownSpaceIsTheTable : Prop :=
  ∀ w : Word, (∃ why, decodeWord w = .unknown why) ↔
    (w.toNat / 4096 = 0x0 ∧ w ≠ 0x00E0#16 ∧ w ≠ 0x00EE#16) ∨
    (w.toNat / 4096 = 0x5 ∧ w.toNat % 16 ≠ 0) ∨
    (w.toNat / 4096 = 0x8 ∧ w.toNat % 16 ∈ [0x8, 0x9, 0xA, 0xB, 0xC, 0xD, 0xF]) ∨
    w.toNat / 4096 ∈ [0x9, 0xB, 0xC, 0xE] ∨
    (w.toNat / 4096 = 0xF ∧ w.toNat % 256 ∉ [0x07, 0x15, 0x18, 0x1E, 0x29, 0x33, 0x55, 0x65])

/-- One word of each of the twelve families that have an instruction (the high nibble, R13), written out from R307, decodes to
its instruction; and the bytes of a word stand big-endian. -/
def Obligations.SampleWordsDecode : Prop :=
  decodeWord 0x00EE#16 = .instr .ret ∧ decodeWord 0x1ABC#16 = .instr (.jp 0xABC#12) ∧
  decodeWord 0x2301#16 = .instr (.call 0x301#12) ∧ decodeWord 0x3F12#16 = .instr (.seImm 15 0x12#8) ∧
  decodeWord 0x41FE#16 = .instr (.sneImm 1 0xFE#8) ∧ decodeWord 0x5120#16 = .instr (.seReg 1 2) ∧
  decodeWord 0x6A7B#16 = .instr (.ldImm 10 0x7B#8) ∧ decodeWord 0x71FF#16 = .instr (.addImm 1 0xFF#8) ∧
  decodeWord 0x8376#16 = .instr (.shr 3 7) ∧ decodeWord 0xA300#16 = .instr (.ldI 0x300#12) ∧
  decodeWord 0xD125#16 = .instr (.drw 1 2 5#4) ∧ decodeWord 0xF518#16 = .instr (.ldStVx 5) ∧
  decodeWord 0xFF65#16 = .instr (.ldVxMem 15) ∧ decodeBytes [0x6A#8, 0x7B#8] = (.instr (.ldImm 10 0x7B#8), [])

/-! ## The instruction cycle -/

/-- When the bytes at PC decode to a well-formed instruction, STEP is that instruction, executed after PC has advanced by 2
modulo 2^16 (R400, R404, R405). -/
def Obligations.StepRunsDecodedInstruction : Prop :=
  ∀ (s : State) (i : Instr), s.fault = none → s.pc.toNat ≤ 0xFFE → i.wellFormed = true →
    decodeBytes [Memory.read s.mem s.pc.toNat, Memory.read s.mem (s.pc.toNat + 1)] = (.instr i, []) →
    step s = exec i { s with pc := s.pc + 2#16 }

/-- A STEP of a halted block changes nothing and returns HALTED, at PC, with the latched record (R401; the
spec's decision D5). -/
def Obligations.HaltedStepChangesNothing : Prop :=
  ∀ (s : State) (f : FaultRecord), s.fault = some f →
    perform .step s = .next (s, .step ⟨.halted, s.pc, none, some f⟩)

/-- The fetch reads the big-endian word at PC when PC is at most 0xFFE; otherwise the STEP latches AddressOutOfRange at PC with
no word, and PC and everything else stay (R402; the spec's decision D3). -/
def Obligations.FetchOutOfRangeFaults : Prop :=
  (∀ s : State, s.pc.toNat ≤ 0xFFE →
    ∃ w, s.fetchWord = some w ∧
      w.toNat = (Memory.read s.mem s.pc.toNat).toNat * 256 + (Memory.read s.mem (s.pc.toNat + 1)).toNat) ∧
  ∀ s : State, s.fault = none → s.pc.toNat ≥ 0xFFF →
    perform .step s = .next ({ s with fault := some ⟨.addressOutOfRange, s.pc, none⟩ },
      .step ⟨.addressOutOfRange, s.pc, none, none⟩)

/-- An unknown opcode advances PC by 2, sets UNK_SEEN and changes nothing else; it is reported with its address and word, and
FAULT stays NONE, so the next STEP executes at `a + 2` (R712; the spec's decision D7). -/
def Obligations.UnknownOpcodeAdvancesAndMarks : Prop :=
  ∀ (s : State) (w : Word) (why : NotInstr), s.fault = none → s.fetchWord = some w → decodeWord w = .unknown why →
    ∃ t, perform .step s = .next (t, .step ⟨.unknownOpcode, s.pc, some w, none⟩) ∧
      t = { s with pc := s.pc + 2#16, unkSeen := true } ∧ t.fault = none

/-- PC after each STEP is R410's table, which the spec derives from R402, R404, R450 to R456, R711 and R712. -/
def Obligations.PcAfterEveryStep : Prop :=
  ∀ s : State, ∃ t, step s = .next t ∧
    (s.fault ≠ none → t.pc = s.pc) ∧
    (s.fault = none → s.fetchWord = none → t.pc = s.pc) ∧
    (∀ w why, s.fault = none → s.fetchWord = some w → decodeWord w = .unknown why → t.pc = s.pc + 2#16) ∧
    (∀ w i, s.fault = none → s.fetchWord = some w → decodeWord w = .instr i → t.pc = pcAfter i s)

/-- The result of every STEP: the errors in the priority of R714, each exactly where its condition holds, else OK; `at` is the
address of the instruction (R714, which the spec derives from R400 and the rules of the instructions). -/
def Obligations.ErrorOfEveryStep : Prop :=
  ∀ s : State, ∃ t r, perform .step s = .next (t, .step r) ∧ r.addr = s.pc ∧
    (∀ f, s.fault = some f → r.code = .halted ∧ r.word = none ∧ r.latched = some f) ∧
    (s.fault = none → s.pc.toNat > 0xFFE → r.code = .addressOutOfRange ∧ r.word = none) ∧
    (∀ w, s.fault = none → s.fetchWord = some w →
      r.word = some w ∧
      (∀ why, decodeWord w = .unknown why → r.code = .unknownOpcode) ∧
      ∀ i, decodeWord w = .instr i → r.code = executionCode i s)

/-- Errors are precise: after a fatal error the state is the one before the STEP but for the latched record, which is the one
returned, and PC, which keeps the advance unless the fetch failed; after an unknown opcode it is that but for PC and
UNK_SEEN. The record names the instruction by its address and its word, absent where the fetch failed (R711,
R712, and R715, which the spec derives from them). -/
def Obligations.ErrorsArePrecise : Prop :=
  ∀ s : State, s.fault = none → ∃ t r, perform .step s = .next (t, .step r) ∧
    r.addr = s.pc ∧ r.word = s.fetchWord ∧
    (r.code.fatal = true → ∃ c : FaultCode, c.result = r.code ∧
      t = { s with
        pc := if r.word = none then s.pc else s.pc + 2#16
        fault := some ⟨c, r.addr, r.word⟩ }) ∧
    (r.code = .unknownOpcode → t = { s with pc := s.pc + 2#16, unkSeen := true }) ∧
    (r.code = .ok → t.fault = none ∧ t.unkSeen = s.unkSeen)

/-- What a program cannot see does not act on it: two states that differ only in ST, KEY, REDRAW, UNK_SEEN and the stack entries
at and above SP step to states that differ only so, with the same result (R116, R107, R111). -/
def Obligations.HiddenStateDoesNotAct : Prop :=
  ∀ s s' : State, SameToProgram s s' →
    ∃ t t', step s = .next t ∧ step s' = .next t' ∧ SameToProgram t t' ∧ stepResult s t = stepResult s' t'

/-- A self-loop at PC changes nothing, and a state that is any end of a run stays as it is under STEP (R409, R809). -/
def Obligations.EndOfRunStays : Prop :=
  (∀ s : State, s.fault = none → s.pc.toNat ≤ 0xFFE → s.fetchWord = some (encode (.jp (s.pc.setWidth 12))) →
    step s = .next s) ∧
  ∀ s : State, runEnd s ≠ .running → step s = .next s

/-! ## Control transfer -/

/-- RET pops: SP goes down by one, PC is the entry there, which is left as it is; with an empty stack it takes StackUnderflow
(R450; the spec's decision D6). -/
def Obligations.RetPopsOrUnderflows : Prop :=
  EncodedAs 0xFFFF#16 0x00EE#16 (fun _ => .ret) ∧
  (∀ (s : State) (k : Fin 16), s.sp.val = k.val + 1 → ∃ t, exec .ret s = .next t ∧
    t.sp.val = k.val ∧ t.pc = s.stack[k] ∧ Frame [.pc, .sp] [] nowhere s t) ∧
  ∀ s : State, s.sp.val = 0 → TakesFatal .ret .stackUnderflow s

/-- JP sets PC to the zero-extended address (R451). -/
def Obligations.JpSetsPc : Prop :=
  EncodedAs 0xF000#16 0x1000#16 (fun w => .jp (fieldNNN w)) ∧
  ∀ (nnn : BitVec 12) (s : State), ∃ t, exec (.jp nnn) s = .next t ∧
    t.pc.toNat = nnn.toNat ∧ Frame [.pc] [] nowhere s t

/-- CALL pushes the advanced PC and jumps; the other entries are unchanged; with a full stack it takes StackOverflow (R452;
the spec's decision D6). -/
def Obligations.CallPushesOrOverflows : Prop :=
  EncodedAs 0xF000#16 0x2000#16 (fun w => .call (fieldNNN w)) ∧
  (∀ (nnn : BitVec 12) (s : State) (k : Fin 16), s.sp.val = k.val → ∃ t, exec (.call nnn) s = .next t ∧
    t.stack[k] = s.pc ∧ (∀ j : Fin 16, j ≠ k → t.stack[j] = s.stack[j]) ∧ t.sp.val = k.val + 1 ∧
    t.pc.toNat = nnn.toNat ∧ Frame [.pc, .stack, .sp] [] nowhere s t) ∧
  ∀ (nnn : BitVec 12) (s : State), s.sp.val = 16 → TakesFatal (.call nnn) .stackOverflow s

/-- A skip is one more advance by 2 modulo 2^16, taken when V[x] = nn, V[x] ≠ nn, V[x] = V[y] (R453, R454, R455). -/
def Obligations.SkipsAdvanceOnceMore : Prop :=
  EncodedAs 0xF000#16 0x3000#16 (fun w => .seImm (fieldX w) (fieldNN w)) ∧
  EncodedAs 0xF000#16 0x4000#16 (fun w => .sneImm (fieldX w) (fieldNN w)) ∧
  EncodedAs 0xF00F#16 0x5000#16 (fun w => .seReg (fieldX w) (fieldY w)) ∧
  (∀ (x : Reg) (nn : Byte) (s : State), ∃ t, exec (.seImm x nn) s = .next t ∧
    t.pc.toNat = (if s.reg x = nn then (s.pc.toNat + 2) % 65536 else s.pc.toNat) ∧ Frame [.pc] [] nowhere s t) ∧
  (∀ (x : Reg) (nn : Byte) (s : State), ∃ t, exec (.sneImm x nn) s = .next t ∧
    t.pc.toNat = (if s.reg x ≠ nn then (s.pc.toNat + 2) % 65536 else s.pc.toNat) ∧ Frame [.pc] [] nowhere s t) ∧
  ∀ (x y : Reg) (s : State), ∃ t, exec (.seReg x y) s = .next t ∧
    t.pc.toNat = (if s.reg x = s.reg y then (s.pc.toNat + 2) % 65536 else s.pc.toNat) ∧ Frame [.pc] [] nowhere s t

/-- A RET with the stack as a CALL left it resumes at the instruction after the CALL, with SP as before it; whatever else has
happened in between (R450, R452; worked example E4). -/
def Obligations.RetResumesAfterCall : Prop :=
  ∀ (nnn : BitVec 12) (s : State), s.sp.val < 16 → ∃ t, exec (.call nnn) s = .next t ∧
    ∀ t' : State, t'.stack = t.stack → t'.sp = t.sp →
      ∃ u, exec .ret t' = .next u ∧ u.pc = s.pc ∧ u.sp = s.sp ∧ u.v = t'.v ∧ u.ireg = t'.ireg ∧ u.mem = t'.mem

/-! ## Register loads and the ALU -/

/-- LD Vx, nn (R500). -/
def Obligations.LdImmLoads : Prop :=
  EncodedAs 0xF000#16 0x6000#16 (fun w => .ldImm (fieldX w) (fieldNN w)) ∧
  ∀ (x : Reg) (nn : Byte) (s : State), ∃ t, exec (.ldImm x nn) s = .next t ∧
    t.reg x = nn ∧ Frame [] [x] nowhere s t

/-- ADD Vx, nn: modulo 256, and no flag (R501). -/
def Obligations.AddImmWraps : Prop :=
  EncodedAs 0xF000#16 0x7000#16 (fun w => .addImm (fieldX w) (fieldNN w)) ∧
  ∀ (x : Reg) (nn : Byte) (s : State), ∃ t, exec (.addImm x nn) s = .next t ∧
    (t.reg x).toNat = ((s.reg x).toNat + nn.toNat) % 256 ∧ Frame [] [x] nowhere s t

/-- LD Vx, Vy (R502). -/
def Obligations.LdRegCopies : Prop :=
  EncodedAs 0xF00F#16 0x8000#16 (fun w => .ldReg (fieldX w) (fieldY w)) ∧
  ∀ (x y : Reg) (s : State), ∃ t, exec (.ldReg x y) s = .next t ∧ t.reg x = s.reg y ∧ Frame [] [x] nowhere s t

/-- OR, AND, XOR, bit by bit; VF is not reset (R503, R504, R505). -/
def Obligations.LogicIsBitwise : Prop :=
  EncodedAs 0xF00F#16 0x8001#16 (fun w => .or (fieldX w) (fieldY w)) ∧
  EncodedAs 0xF00F#16 0x8002#16 (fun w => .and (fieldX w) (fieldY w)) ∧
  EncodedAs 0xF00F#16 0x8003#16 (fun w => .xor (fieldX w) (fieldY w)) ∧
  (∀ (x y : Reg) (s : State), ∃ t, exec (.or x y) s = .next t ∧ Frame [] [x] nowhere s t ∧
    ∀ k, (t.reg x).getLsbD k = ((s.reg x).getLsbD k || (s.reg y).getLsbD k)) ∧
  (∀ (x y : Reg) (s : State), ∃ t, exec (.and x y) s = .next t ∧ Frame [] [x] nowhere s t ∧
    ∀ k, (t.reg x).getLsbD k = ((s.reg x).getLsbD k && (s.reg y).getLsbD k)) ∧
  ∀ (x y : Reg) (s : State), ∃ t, exec (.xor x y) s = .next t ∧ Frame [] [x] nowhere s t ∧
    ∀ k, (t.reg x).getLsbD k = ((s.reg x).getLsbD k != (s.reg y).getLsbD k)

/-- ADD Vx, Vy: VF is the carry of the sum of the entry values, V[x] the sum modulo 256, which stands last where `x` is VF
(R506). -/
def Obligations.AddRegCarries : Prop :=
  EncodedAs 0xF00F#16 0x8004#16 (fun w => .addReg (fieldX w) (fieldY w)) ∧
  ∀ (x y : Reg) (s : State), ∃ t, exec (.addReg x y) s = .next t ∧
    (t.reg x).toNat = ((s.reg x).toNat + (s.reg y).toNat) % 256 ∧
    (x ≠ 15 → (t.reg 15).toNat = if (s.reg x).toNat + (s.reg y).toNat > 255 then 1 else 0) ∧
    Frame [] [x, 15] nowhere s t

/-- SUB Vx, Vy in all five register cases of R507, `f` being 1 exactly on a strictly positive difference of the entry values.
The cases are derived by the spec from R507's statements in their order, which is its decision D9 (log entry 10). -/
def Obligations.SubFlagsStrictly : Prop :=
  EncodedAs 0xF00F#16 0x8005#16 (fun w => .sub (fieldX w) (fieldY w)) ∧
  ∀ (x y : Reg) (s : State), ∃ t, exec (.sub x y) s = .next t ∧ Frame [] [x, 15] nowhere s t ∧
    ∀ f : Nat, f = (if (s.reg x).toNat > (s.reg y).toNat then 1 else 0) →
      (x ≠ 15 → (t.reg 15).toNat = f) ∧
      (x ≠ 15 → y ≠ 15 → (t.reg x).toNat = ((s.reg x).toNat + 256 - (s.reg y).toNat) % 256) ∧
      (x = 15 → y ≠ 15 → (t.reg x).toNat = (f + 256 - (s.reg y).toNat) % 256) ∧
      (x ≠ 15 → y = 15 → (t.reg x).toNat = ((s.reg x).toNat + 256 - f) % 256) ∧
      (x = 15 → y = 15 → (t.reg x).toNat = 0)

/-- SHR Vx: VF is the old bit 0, V[x] is halved; V[y] plays no part; VF shifted ends 0 (R508). -/
def Obligations.ShrMovesBitZeroOut : Prop :=
  EncodedAs 0xF00F#16 0x8006#16 (fun w => .shr (fieldX w) (fieldY w)) ∧
  ∀ (x y : Reg) (s : State), ∃ t, exec (.shr x y) s = .next t ∧ Frame [] [x, 15] nowhere s t ∧
    (x ≠ 15 → (t.reg 15).toNat = (s.reg x).toNat % 2 ∧ (t.reg x).toNat = (s.reg x).toNat / 2) ∧
    (x = 15 → (t.reg x).toNat = 0)

/-- SUBN Vx, Vy in all five register cases of R509, derived by the spec from its statements in their order (D9, log entry 10). -/
def Obligations.SubnFlagsStrictly : Prop :=
  EncodedAs 0xF00F#16 0x8007#16 (fun w => .subn (fieldX w) (fieldY w)) ∧
  ∀ (x y : Reg) (s : State), ∃ t, exec (.subn x y) s = .next t ∧ Frame [] [x, 15] nowhere s t ∧
    ∀ f : Nat, f = (if (s.reg y).toNat > (s.reg x).toNat then 1 else 0) →
      (x ≠ 15 → (t.reg 15).toNat = f) ∧
      (x ≠ 15 → y ≠ 15 → (t.reg x).toNat = ((s.reg y).toNat + 256 - (s.reg x).toNat) % 256) ∧
      (x = 15 → y ≠ 15 → (t.reg x).toNat = ((s.reg y).toNat + 256 - f) % 256) ∧
      (x ≠ 15 → y = 15 → (t.reg x).toNat = (f + 256 - (s.reg x).toNat) % 256) ∧
      (x = 15 → y = 15 → (t.reg x).toNat = 0)

/-- SHL Vx: VF is the old bit 7, V[x] is doubled modulo 256; V[y] plays no part; VF shifted ends twice its old bit 7 (R510). -/
def Obligations.ShlMovesBitSevenOut : Prop :=
  EncodedAs 0xF00F#16 0x800E#16 (fun w => .shl (fieldX w) (fieldY w)) ∧
  ∀ (x y : Reg) (s : State), ∃ t, exec (.shl x y) s = .next t ∧ Frame [] [x, 15] nowhere s t ∧
    (x ≠ 15 → (t.reg 15).toNat = (s.reg x).toNat / 128 ∧ (t.reg x).toNat = 2 * (s.reg x).toNat % 256) ∧
    (x = 15 → (t.reg x).toNat = 2 * ((s.reg x).toNat / 128))

/-- VF is written as a side effect by 8XY4, 8XY5, 8XY6, 8XY7, 8XYE and DXYN only: any other instruction that does not name it as
a destination leaves it (R103). -/
def Obligations.OnlySixWriteVfAside : Prop :=
  ∀ (i : Instr) (s : State), ∃ t, exec i s = .next t ∧
    (i.mnemonic ∉ ["ADD_REG", "SUB", "SHR", "SUBN", "SHL", "DRW"] → 15 ∉ namedDestinations i → t.reg 15 = s.reg 15)

/-! ## Index register and memory -/

/-- LD I, nnn (R550). -/
def Obligations.LdILoads : Prop :=
  EncodedAs 0xF000#16 0xA000#16 (fun w => .ldI (fieldNNN w)) ∧
  ∀ (nnn : BitVec 12) (s : State), ∃ t, exec (.ldI nnn) s = .next t ∧
    t.ireg.toNat = nnn.toNat ∧ Frame [.ireg] [] nowhere s t

/-- ADD I, Vx: modulo 2^16, and no flag (R551; the spec's decision D11, log entry 12). -/
def Obligations.AddIWrapsAtSixteenBits : Prop :=
  EncodedAs 0xF0FF#16 0xF01E#16 (fun w => .addIVx (fieldX w)) ∧
  ∀ (x : Reg) (s : State), ∃ t, exec (.addIVx x) s = .next t ∧
    t.ireg.toNat = (s.ireg.toNat + (s.reg x).toNat) % 65536 ∧ Frame [.ireg] [] nowhere s t

/-- LD F, Vx: five times the whole byte (R552). -/
def Obligations.LdFPointsAtGlyph : Prop :=
  EncodedAs 0xF0FF#16 0xF029#16 (fun w => .ldFVx (fieldX w)) ∧
  ∀ (x : Reg) (s : State), ∃ t, exec (.ldFVx x) s = .next t ∧
    t.ireg.toNat = (s.reg x).toNat * 5 ∧ Frame [.ireg] [] nowhere s t

/-- LD B, Vx: the decimal digits at I, I+1, I+2, or AddressOutOfRange and nothing written (R553; the spec's
decisions D3, D4). -/
def Obligations.LdBStoresDigits : Prop :=
  EncodedAs 0xF0FF#16 0xF033#16 (fun w => .ldBVx (fieldX w)) ∧
  (∀ (x : Reg) (s : State), s.ireg.toNat + 2 ≤ 0xFFF → ∃ t, exec (.ldBVx x) s = .next t ∧
    (Memory.read t.mem s.ireg.toNat).toNat = (s.reg x).toNat / 100 ∧
    (Memory.read t.mem (s.ireg.toNat + 1)).toNat = (s.reg x).toNat / 10 % 10 ∧
    (Memory.read t.mem (s.ireg.toNat + 2)).toNat = (s.reg x).toNat % 10 ∧
    Frame [] [] (bytesFrom s.ireg.toNat 3) s t) ∧
  ∀ (x : Reg) (s : State), s.ireg.toNat + 2 > 0xFFF → TakesFatal (.ldBVx x) .addressOutOfRange s

/-- LD [I], Vx: V[k] at I + k for k = 0 to x, I unchanged, or AddressOutOfRange and nothing written (R554; the spec's
decisions D3, D4, D12). -/
def Obligations.LdMemStoresRegisters : Prop :=
  EncodedAs 0xF0FF#16 0xF055#16 (fun w => .ldMemVx (fieldX w)) ∧
  (∀ (x : Reg) (s : State), s.ireg.toNat + x.val ≤ 0xFFF → ∃ t, exec (.ldMemVx x) s = .next t ∧
    (∀ k : Reg, k ≤ x → Memory.read t.mem (s.ireg.toNat + k.val) = s.reg k) ∧
    Frame [] [] (bytesFrom s.ireg.toNat (x.val + 1)) s t) ∧
  ∀ (x : Reg) (s : State), s.ireg.toNat + x.val > 0xFFF → TakesFatal (.ldMemVx x) .addressOutOfRange s

/-- LD Vx, [I]: V[k] is the byte at I + k for k = 0 to x, registers above x and I unchanged, or AddressOutOfRange and nothing
written (R555; the spec's decisions D3, D4, D12). -/
def Obligations.LdVxMemLoadsRegisters : Prop :=
  EncodedAs 0xF0FF#16 0xF065#16 (fun w => .ldVxMem (fieldX w)) ∧
  (∀ (x : Reg) (s : State), s.ireg.toNat + x.val ≤ 0xFFF → ∃ t, exec (.ldVxMem x) s = .next t ∧
    (∀ k : Reg, k ≤ x → t.reg k = Memory.read s.mem (s.ireg.toNat + k.val)) ∧
    Frame [] (regsUpTo x) nowhere s t) ∧
  ∀ (x : Reg) (s : State), s.ireg.toNat + x.val > 0xFFF → TakesFatal (.ldVxMem x) .addressOutOfRange s

/-- FX55 and later FX65 at the same I, the memory untouched between, give back V[0] to V[x], whatever the registers held
(R554, R555, R224). -/
def Obligations.StoreThenLoadRestores : Prop :=
  ∀ (x : Reg) (s : State), s.ireg.toNat + x.val ≤ 0xFFF → ∃ t, exec (.ldMemVx x) s = .next t ∧
    ∀ t' : State, t'.mem = t.mem → t'.ireg = t.ireg →
      ∃ u, exec (.ldVxMem x) t' = .next u ∧ (∀ k : Reg, k ≤ x → u.reg k = s.reg k) ∧
        (∀ k : Reg, x < k → u.reg k = t'.reg k) ∧ u.mem = t.mem

/-- A fetch sees every earlier store, with nothing in between: a word fetched anywhere after FX55 is made, big-endian, of the
registers stored where its bytes are in the stored range and of the old memory where they are not, whether both its bytes,
one of them or neither is in it; likewise after FX33, of the digits (R233, R222, R807). -/
def Obligations.FetchSeesStores : Prop :=
  (∀ (x : Reg) (s : State), s.ireg.toNat + x.val ≤ 0xFFF → ∃ t, exec (.ldMemVx x) s = .next t ∧
    FetchesFrom t fun a b =>
      (∀ k : Reg, k ≤ x → a = s.ireg.toNat + k.val → b = s.reg k) ∧
      (¬ bytesFrom s.ireg.toNat (x.val + 1) a → b = Memory.read s.mem a)) ∧
  ∀ (x : Reg) (s : State), s.ireg.toNat + 2 ≤ 0xFFF → ∃ t, exec (.ldBVx x) s = .next t ∧
    FetchesFrom t fun a b =>
      (a = s.ireg.toNat → b.toNat = (s.reg x).toNat / 100) ∧
      (a = s.ireg.toNat + 1 → b.toNat = (s.reg x).toNat / 10 % 10) ∧
      (a = s.ireg.toNat + 2 → b.toNat = (s.reg x).toNat % 10) ∧
      (¬ bytesFrom s.ireg.toNat 3 a → b = Memory.read s.mem a)

/-- Who writes what: each item of the state is left alone by every instruction that the spec does not name as a writer of it.
PC is compared after the advance of the fetch, which every instruction has (R404); a register is written where it is the
named destination, and VF by the six instructions of R103 too (R103, R106, R107, R109 to R114, R410, R553, R554). -/
def Obligations.OnlyNamedWritersWrite : Prop :=
  ∀ (i : Instr) (s : State), ∃ t, exec i s = .next t ∧
    (∀ r, r ∉ namedDestinations i →
      (r = 15 → i.mnemonic ∉ ["ADD_REG", "SUB", "SHR", "SUBN", "SHL", "DRW"]) → t.reg r = s.reg r) ∧
    (i.mnemonic ∉ ["RET", "JP", "CALL", "SE_IMM", "SNE_IMM", "SE_REG"] → t.pc = s.pc) ∧
    (i.mnemonic ∉ ["LD_I", "ADD_I_VX", "LD_F_VX"] → t.ireg = s.ireg) ∧
    (i.mnemonic ≠ "CALL" → t.stack = s.stack) ∧
    (i.mnemonic ∉ ["CALL", "RET"] → t.sp = s.sp) ∧
    (i.mnemonic ≠ "LD_DT_VX" → t.dt = s.dt) ∧
    (i.mnemonic ≠ "LD_ST_VX" → t.st = s.st) ∧
    (i.mnemonic ∉ ["CLS", "DRW"] → t.fb = s.fb ∧ t.redraw = s.redraw) ∧
    (i.mnemonic ∉ ["LD_B_VX", "LD_MEM_VX"] → t.mem = s.mem) ∧
    (executionError i = none → t.fault = s.fault) ∧
    t.key = s.key ∧ t.unkSeen = s.unkSeen

/-! ## Display -/

/-- CLS turns every cell off and sets REDRAW, even where all were off (R600). -/
def Obligations.ClsClearsEveryCell : Prop :=
  EncodedAs 0xFFFF#16 0x00E0#16 (fun _ => .cls) ∧
  ∀ s : State, ∃ t, exec .cls s = .next t ∧ (∀ px py, Framebuffer.get t.fb px py = false) ∧ t.redraw = true ∧
    Frame [.fb, .redraw] [] nowhere s t

/-- DRW: each cell is turned over exactly where a set bit of the sprite falls, with both axes wrapped; VF is 1 exactly when a
set bit met a lit cell, else 0; REDRAW is set; the coordinates are the entry values, VF's too; or AddressOutOfRange and
nothing changed (R601, R602; the spec's decisions D3, D4 and D10, log
entry 11). -/
def Obligations.DrwTogglesCoveredCells : Prop :=
  EncodedAs 0xF000#16 0xD000#16 (fun w => .drw (fieldX w) (fieldY w) (fieldN w)) ∧
  (∀ (x y : Reg) (n : BitVec 4) (s : State), n.toNat = 0 ∨ s.ireg.toNat + n.toNat - 1 ≤ 0xFFF →
    ∃ t, exec (.drw x y n) s = .next t ∧
      (∀ px py, Framebuffer.get t.fb px py = true ↔
        (Framebuffer.get s.fb px py = true ↔ ¬ SpriteCovers s.spriteRows (s.reg x) (s.reg y) n.toNat px py)) ∧
      ((∃ px py, SpriteCovers s.spriteRows (s.reg x) (s.reg y) n.toNat px py ∧ Framebuffer.get s.fb px py = true) →
        (t.reg 15).toNat = 1) ∧
      ((¬ ∃ px py, SpriteCovers s.spriteRows (s.reg x) (s.reg y) n.toNat px py ∧ Framebuffer.get s.fb px py = true) →
        (t.reg 15).toNat = 0) ∧
      t.redraw = true ∧ Frame [.fb, .redraw] [15] nowhere s t) ∧
  ∀ (x y : Reg) (n : BitVec 4) (s : State), 0 < n.toNat → s.ireg.toNat + n.toNat - 1 > 0xFFF →
    TakesFatal (.drw x y n) .addressOutOfRange s

/-- Drawing the same sprite at the same place twice restores the framebuffer exactly; the first draw reports a collision exactly
when a set bit fell on a lit cell, the second exactly when a set bit of the first fell on an unlit cell, which it has lit
(from R601 to R603; R605 says of the second draw what holds only where the first met no lit cell: log entry 16). -/
def Obligations.DoubleDrawRestores : Prop :=
  ∀ (x y : Reg) (n : BitVec 4) (s : State), x ≠ 15 → y ≠ 15 → n.toNat = 0 ∨ s.ireg.toNat + n.toNat - 1 ≤ 0xFFF →
    ∃ t, exec (.drw x y n) s = .next t ∧
      ((t.reg 15).toNat = 1 ↔
        ∃ px py, SpriteCovers s.spriteRows (s.reg x) (s.reg y) n.toNat px py ∧ Framebuffer.get s.fb px py = true) ∧
      ∀ t' : State, t'.fb = t.fb → t'.ireg = t.ireg → t'.reg x = t.reg x → t'.reg y = t.reg y →
        (∀ r, r < n.toNat → t'.spriteRows r = t.spriteRows r) →
        ∃ u, exec (.drw x y n) t' = .next u ∧ u.fb = s.fb ∧
          ((u.reg 15).toNat = 1 ↔
            ∃ px py, SpriteCovers s.spriteRows (s.reg x) (s.reg y) n.toNat px py ∧ Framebuffer.get s.fb px py = false)

/-- R605's own words on the second draw: with `x` and `y` not 0xF it reports VF = 1 if and only if the sprite has a set bit in
its `n` rows. EXPECTED TO FAIL: where the first draw met lit cells only, the second finds them unlit, and R603 gives VF = 0
(log entry 16). -/
def Obligations.SecondDrawCollidesIffSpriteHasSetBit : Prop :=
  ∀ (x y : Reg) (n : BitVec 4) (s t u : State), x ≠ 15 → y ≠ 15 →
    n.toNat = 0 ∨ s.ireg.toNat + n.toNat - 1 ≤ 0xFFF →
    exec (.drw x y n) s = .next t → exec (.drw x y n) t = .next u →
    ((u.reg 15).toNat = 1 ↔ ∃ r c, r < n.toNat ∧ c < 8 ∧ (s.spriteRows r).getLsbD c = true)

/-! ## Timers -/

/-- FX07 reads DT, FX15 sets DT, FX18 sets ST; no timer counts down (R650, R651, R652). -/
def Obligations.TimerInstructionsMove : Prop :=
  EncodedAs 0xF0FF#16 0xF007#16 (fun w => .ldVxDt (fieldX w)) ∧
  EncodedAs 0xF0FF#16 0xF015#16 (fun w => .ldDtVx (fieldX w)) ∧
  EncodedAs 0xF0FF#16 0xF018#16 (fun w => .ldStVx (fieldX w)) ∧
  (∀ (x : Reg) (s : State), ∃ t, exec (.ldVxDt x) s = .next t ∧ t.reg x = s.dt ∧ Frame [] [x] nowhere s t) ∧
  (∀ (x : Reg) (s : State), ∃ t, exec (.ldDtVx x) s = .next t ∧ t.dt = s.reg x ∧ Frame [.dt] [] nowhere s t) ∧
  ∀ (x : Reg) (s : State), ∃ t, exec (.ldStVx x) s = .next t ∧ t.st = s.reg x ∧ Frame [.st] [] nowhere s t

/-- TICK: each timer goes down by one while nonzero and stays at 0; nothing else changes, halted or not (R740; the spec's decision
D15). -/
def Obligations.TickCountsDownToZero : Prop :=
  ∀ s : State, ∃ t, perform .tick s = .next (t, .none) ∧
    (0 < s.dt.toNat → t.dt.toNat = s.dt.toNat - 1) ∧ (s.dt.toNat = 0 → t.dt.toNat = 0) ∧
    (0 < s.st.toNat → t.st.toNat = s.st.toNat - 1) ∧ (s.st.toNat = 0 → t.st.toNat = 0) ∧
    Frame [.dt, .st] [] nowhere s t

/-! ## Reset, load and the other host operations -/

/-- After RESET, from whatever state, every item has the value of R117's table (R117, R800; the spec's decision D35
for FAULT and UNK_SEEN). -/
def Obligations.ResetSetsEveryItem : Prop :=
  ∀ s : State, ∃ t, perform .reset s = .next (t, .none) ∧ t = State.reset ∧
    (∀ a, Memory.read t.mem a = 0#8) ∧ (∀ r, t.reg r = 0#8) ∧ t.ireg = 0#16 ∧ t.pc = 0x200#16 ∧
    (∀ k : Fin 16, t.stack[k] = 0#16) ∧ t.sp.val = 0 ∧ t.dt = 0#8 ∧ t.st = 0#8 ∧
    (∀ px py, Framebuffer.get t.fb px py = false) ∧ (∀ k : Key, t.key[k] = false) ∧ t.redraw = false ∧
    t.fault = none ∧ t.unkSeen = false

/-- LOAD of at most 3584 bytes resets the block and puts the image at 0x200, the bytes elsewhere 0; a longer one is refused and
changes nothing (R801, R802; the spec's decision D19). -/
def Obligations.LoadResetsAndCopies : Prop :=
  (∀ (rom : List Byte) (s : State), rom.length ≤ 3584 → ∃ t, perform (.load rom) s = .next (t, .load .ok) ∧
    (∀ (k : Nat) (h : k < rom.length), Memory.read t.mem (0x200 + k) = rom[k]) ∧
    (∀ a, a < 0x200 ∨ 0x200 + rom.length ≤ a → Memory.read t.mem a = 0#8) ∧
    Frame [] [] (bytesFrom 0x200 rom.length) State.reset t) ∧
  ∀ (rom : List Byte) (s : State), rom.length > 3584 →
    perform (.load rom) s = .next (s, .load (.romTooLarge rom.length))

/-- LOWMEM_WRITE writes its bytes, all within 0x000 to 0x1FF, or is refused and changes nothing (R763; the spec's
decision D18). -/
def Obligations.LowmemWriteStaysLow : Prop :=
  (∀ (addr : Nat) (bytes : List Byte) (s : State), 1 ≤ bytes.length → addr + bytes.length - 1 ≤ 0x1FF →
    ∃ t, perform (.lowmemWrite addr bytes) s = .next (t, .lowmem .ok) ∧
      (∀ (k : Nat) (h : k < bytes.length), Memory.read t.mem (addr + k) = bytes[k]) ∧
      Frame [] [] (bytesFrom addr bytes.length) s t) ∧
  ∀ (addr : Nat) (bytes : List Byte) (s : State), bytes.length = 0 ∨ addr + bytes.length - 1 > 0x1FF →
    perform (.lowmemWrite addr bytes) s = .next (s, .lowmem .refused)

/-- SET_KEYS writes KEY, ACK_REDRAW clears REDRAW, and OBSERVE returns the state with SOUND_ON and changes nothing
(R761, R762, R764). -/
def Obligations.SettersAndObserve : Prop :=
  (∀ (k : Vector Bool 16) (s : State), ∃ t, perform (.setKeys k) s = .next (t, .none) ∧
    (∀ i : Key, t.key[i] = k[i]) ∧ Frame [.key] [] nowhere s t) ∧
  (∀ s : State, ∃ t, perform .ackRedraw s = .next (t, .none) ∧ t.redraw = false ∧ Frame [.redraw] [] nowhere s t) ∧
  ∀ s : State, ∃ o, perform .observe s = .next (s, .observe o) ∧ o.state = s ∧ (o.soundOn = true ↔ s.st.toNat ≠ 0)

/-- The framebuffer export is row-major: 2048 booleans, element `y * 64 + x` being FB[x][y] (R745). -/
def Obligations.ExportIsRowMajor : Prop :=
  ∀ s : State, (framebufferExport s).length = 2048 ∧
    ∀ (px : Column) (py : Row), (framebufferExport s)[py.val * 64 + px.val]? = some (Framebuffer.get s.fb px py)

/-- What the host cannot do: no operation but STEP, RESET and a LOAD that is not refused writes V, I, PC, SP, STACK, FB, FAULT
or UNK_SEEN, or memory above 0x1FF; only TICK among the rest touches DT and ST, and none of them sets REDRAW (R767). -/
def Obligations.HostCannotWriteDirectly : Prop :=
  ∀ (op : Operation) (s : State), op ≠ .step → op ≠ .reset → (∀ rom, op = .load rom → rom.length > 3584) →
    ∃ t r, perform op s = .next (t, r) ∧
      t.v = s.v ∧ t.ireg = s.ireg ∧ t.pc = s.pc ∧ t.sp = s.sp ∧ t.stack = s.stack ∧ t.fb = s.fb ∧ t.fault = s.fault ∧
      t.unkSeen = s.unkSeen ∧ (op ≠ .tick → t.dt = s.dt ∧ t.st = s.st) ∧ (t.redraw = true → s.redraw = true) ∧
      ∀ a, 0x1FF < a → Memory.read t.mem a = Memory.read s.mem a

/-- A latched fault and the sticky UNK_SEEN outlive every operation, STEP too, but RESET and a successful LOAD, which clear both
(R113, R114, R713). -/
def Obligations.LatchOutlivesAllButReset : Prop :=
  ∀ (op : Operation) (s : State), ∃ t r, perform op s = .next (t, r) ∧
    (op = .reset ∨ r = .load .ok → t.fault = none ∧ t.unkSeen = false) ∧
    (op ≠ .reset → r ≠ .load .ok →
      (∀ f, s.fault = some f → t.fault = some f) ∧ (s.unkSeen = true → t.unkSeen = true))

/-! ## Invariants -/

/-- The invariant holds after reset (R117, R118). -/
def Obligations.InvariantHoldsAtReset : Prop := Inv State.reset

/-- Every STEP keeps the invariant: memory in canonical form within the address space, PC at most 0x1002, stack entries at most
0x1000, a latched record that agrees with the state (R118, R108, R711). -/
def Obligations.StepKeepsInvariant : Prop :=
  ∀ s t : State, Inv s → step s = .next t → Inv t

/-- Any operations in any order the host chooses complete and keep the invariant (R118, R765). -/
def Obligations.OperationsKeepInvariant : Prop :=
  ∀ (ops : List Operation) (s : State), Inv s → ∃ t, performAll ops s = .next t ∧ Inv t

/-- Equal memories are equal data: two memories in canonical form that read alike at every address are the same. -/
def Obligations.CanonicalMemoriesAreEqual : Prop :=
  ∀ m m' : Memory, Memory.wf m → Memory.wf m' → (∀ a, Memory.read m a = Memory.read m' a) → m = m'

/-- A word placed where STEP fetches next is what STEP runs, for every instruction and from every state: PC is unchanged where
it can be fetched from and is 0x200 where it cannot, no fault is latched, and nothing else changes but the two bytes at that
PC (R400, R221; the placement is the model's own operation, log entry 17). -/
def Obligations.PlacedWordIsRun : Prop :=
  ∀ (s : State) (i : Instr) (u : State), u = s.withFetchWord 16 (encode i).toNat →
    (s.pc.toNat ≤ 0xFFE → u.pc = s.pc) ∧ (s.pc.toNat > 0xFFE → u.pc.toNat = 0x200) ∧ u.fault = none ∧
    step u = exec i { u with pc := u.pc + 2#16 } ∧ Frame [.pc, .fault] [] (bytesFrom u.pc.toNat 2) s u
end

