-- ==== Sys2Proof/Laws/Decode.lean ====
section
/-! SUPPORT. Laws/Decode.lean: the fields of a packed word, a word from its fields, the bytes of a word, and what the decoder
does on a byte string. -/

namespace Sys2Proof

variable (f : BitVec 4) (x y : Reg) (n : BitVec 4) (nn : Byte) (nnn : BitVec 12)

theorem toNat_packNNN : (packNNN f nnn).toNat = f.toNat * 4096 + nnn.toNat := by
  have := nnn.isLt
  simp only [packNNN, BitVec.toNat_append]
  rw [← Nat.shiftLeft_add_eq_or_of_lt this, Nat.shiftLeft_eq]

theorem toNat_packXNN : (packXNN f x nn).toNat = f.toNat * 4096 + x.val * 256 + nn.toNat := by
  have := nn.isLt; have hx := x.isLt
  simp only [packXNN, BitVec.toNat_append, BitVec.toNat_ofNat]
  rw [← Nat.shiftLeft_add_eq_or_of_lt this, ← Nat.shiftLeft_add_eq_or_of_lt (Nat.mod_lt _ (by decide)), Nat.shiftLeft_eq,
    Nat.shiftLeft_eq]
  omega

theorem toNat_packXYN : (packXYN f x y n).toNat = f.toNat * 4096 + x.val * 256 + y.val * 16 + n.toNat := by
  have := n.isLt; have hx := x.isLt; have hy := y.isLt
  simp only [packXYN, BitVec.toNat_append, BitVec.toNat_ofNat]
  rw [← Nat.shiftLeft_add_eq_or_of_lt this, ← Nat.shiftLeft_add_eq_or_of_lt (Nat.mod_lt _ (by decide)),
    ← Nat.shiftLeft_add_eq_or_of_lt (Nat.mod_lt _ (by decide)), Nat.shiftLeft_eq, Nat.shiftLeft_eq, Nat.shiftLeft_eq]
  omega

/-! ## Each field as arithmetic on the word (R302) -/

theorem fieldF_val (w : Word) : (fieldF w).val = w.toNat / 4096 := by
  have := w.isLt
  show (w.extractLsb' 12 4).toNat = _
  rw [BitVec.extractLsb'_toNat, Nat.shiftRight_eq_div_pow]; omega

theorem fieldX_val (w : Word) : (fieldX w).val = w.toNat / 256 % 16 := by
  show (w.extractLsb' 8 4).toNat = _
  rw [BitVec.extractLsb'_toNat, Nat.shiftRight_eq_div_pow]

theorem fieldY_val (w : Word) : (fieldY w).val = w.toNat / 16 % 16 := by
  show (w.extractLsb' 4 4).toNat = _
  rw [BitVec.extractLsb'_toNat, Nat.shiftRight_eq_div_pow]

theorem fieldN_toNat (w : Word) : (fieldN w).toNat = w.toNat % 16 := by
  simp [fieldN, BitVec.extractLsb'_toNat]

theorem fieldNN_toNat (w : Word) : (fieldNN w).toNat = w.toNat % 256 := by
  simp [fieldNN, BitVec.extractLsb'_toNat]

theorem fieldNNN_toNat (w : Word) : (fieldNNN w).toNat = w.toNat % 4096 := by
  simp [fieldNNN, BitVec.extractLsb'_toNat]

/-! ## The fields of a packed word -/

@[simp] theorem fieldF_packNNN : (fieldF (packNNN f nnn)).val = f.toNat := by
  have := nnn.isLt; rw [fieldF_val, toNat_packNNN]; omega

@[simp] theorem fieldNNN_packNNN : fieldNNN (packNNN f nnn) = nnn := by
  have := nnn.isLt
  apply BitVec.eq_of_toNat_eq; rw [fieldNNN_toNat, toNat_packNNN]; omega

@[simp] theorem fieldF_packXNN : (fieldF (packXNN f x nn)).val = f.toNat := by
  have := nn.isLt; have := x.isLt; rw [fieldF_val, toNat_packXNN]; omega

@[simp] theorem fieldX_packXNN : fieldX (packXNN f x nn) = x := by
  have := nn.isLt; have := x.isLt
  apply Fin.ext; rw [fieldX_val, toNat_packXNN]; omega

@[simp] theorem fieldNN_packXNN : fieldNN (packXNN f x nn) = nn := by
  have := nn.isLt
  apply BitVec.eq_of_toNat_eq; rw [fieldNN_toNat, toNat_packXNN]; omega

@[simp] theorem fieldF_packXYN : (fieldF (packXYN f x y n)).val = f.toNat := by
  have := n.isLt; have := x.isLt; have := y.isLt; rw [fieldF_val, toNat_packXYN]; omega

@[simp] theorem fieldX_packXYN : fieldX (packXYN f x y n) = x := by
  have := n.isLt; have := x.isLt; have := y.isLt
  apply Fin.ext; rw [fieldX_val, toNat_packXYN]; omega

@[simp] theorem fieldY_packXYN : fieldY (packXYN f x y n) = y := by
  have := n.isLt; have := x.isLt; have := y.isLt
  apply Fin.ext; rw [fieldY_val, toNat_packXYN]; omega

@[simp] theorem fieldN_packXYN : fieldN (packXYN f x y n) = n := by
  have := n.isLt
  apply BitVec.eq_of_toNat_eq; rw [fieldN_toNat, toNat_packXYN]; omega

/-! ## A word from its fields -/

theorem packNNN_fields {w : Word} (h : (fieldF w).val = f.toNat) : packNNN f (fieldNNN w) = w := by
  apply BitVec.eq_of_toNat_eq; rw [toNat_packNNN, fieldNNN_toNat, ← h, fieldF_val]; omega

theorem packXNN_fields {w : Word} (h : (fieldF w).val = f.toNat) : packXNN f (fieldX w) (fieldNN w) = w := by
  apply BitVec.eq_of_toNat_eq; rw [toNat_packXNN, fieldNN_toNat, fieldX_val, ← h, fieldF_val]; omega

theorem packXYN_fields {w : Word} (h : (fieldF w).val = f.toNat) :
    packXYN f (fieldX w) (fieldY w) (fieldN w) = w := by
  apply BitVec.eq_of_toNat_eq; rw [toNat_packXYN, fieldN_toNat, fieldX_val, fieldY_val, ← h, fieldF_val]; omega

/-! ## Bytes of a word (R221) -/

@[simp] theorem highByte_wordOfBytes (hi lo : Byte) : highByte (wordOfBytes hi lo) = hi := by
  have hl := lo.isLt; have := hi.isLt
  apply BitVec.eq_of_toNat_eq
  simp only [highByte, wordOfBytes, BitVec.extractLsb'_toNat, BitVec.toNat_append]
  rw [← Nat.shiftLeft_add_eq_or_of_lt hl, Nat.shiftLeft_eq, Nat.shiftRight_eq_div_pow]; omega

@[simp] theorem lowByte_wordOfBytes (hi lo : Byte) : lowByte (wordOfBytes hi lo) = lo := by
  have := lo.isLt
  apply BitVec.eq_of_toNat_eq
  simp only [lowByte, wordOfBytes, BitVec.extractLsb'_toNat, BitVec.toNat_append]
  rw [← Nat.shiftLeft_add_eq_or_of_lt this, Nat.shiftLeft_eq, Nat.shiftRight_eq_div_pow]; omega

@[simp] theorem wordOfBytes_bytes (w : Word) : wordOfBytes (highByte w) (lowByte w) = w := by
  have h := (lowByte w).isLt; have := w.isLt
  apply BitVec.eq_of_toNat_eq
  simp only [wordOfBytes, BitVec.toNat_append]
  rw [← Nat.shiftLeft_add_eq_or_of_lt h, Nat.shiftLeft_eq]
  simp only [highByte, lowByte, BitVec.extractLsb'_toNat, Nat.shiftRight_eq_div_pow]; omega

/-- A word of 16 table bits is the word itself. -/
@[simp] theorem tableWord_toNat (w : Word) : tableWord 16 w.toNat = w := by
  rw [tableWord, Nat.mod_eq_of_lt w.isLt, BitVec.ofNat_toNat, BitVec.setWidth_eq]

/-- The decoder takes exactly two bytes and hands the rest back (R300). -/
@[simp] theorem decodeBytes_cons (hi lo : Byte) (rest : List Byte) :
    decodeBytes (hi :: lo :: rest) = (decodeWord (wordOfBytes hi lo), rest) := rfl

/-- Every instruction is well formed: the types of its operands are the widths of its fields (R301). -/
theorem wellFormed_all (i : Instr) : i.wellFormed = true := by
  cases i <;> simp [Instr.wellFormed, operandsFit, Instr.operandFields, fieldFits] <;>
    exact decide_eq_true (BitVec.isLt _)

end Sys2Proof
end

