-- ==== Sys2Proof/Laws/Memory.lean ====
section
/-! SUPPORT. Laws/Memory.lean: the laws of the memory operations: a read after a write to the same address gives the value
written, a write leaves every other address alone, and every operation keeps the canonical form. The first two need no
canonical form. -/

namespace Sys2Proof.Machine

theorem Memory.read_erase_same (m : Memory) (a : Nat) : Memory.read (Memory.erase m a) a = Memory.unlisted := by
  induction m with
  | nil => rfl
  | cons c rest ih =>
    obtain ⟨b, u⟩ := c
    by_cases h : b = a
    · subst h; simpa [Memory.erase] using ih
    · simpa [Memory.erase, Memory.read, h] using ih

theorem Memory.read_erase_other (m : Memory) {a b : Nat} (h : b ≠ a) :
    Memory.read (Memory.erase m a) b = Memory.read m b := by
  induction m with
  | nil => rfl
  | cons c rest ih =>
    obtain ⟨d, u⟩ := c
    simp only [Memory.erase] at ih
    by_cases hd : d = a
    · subst hd; simp [Memory.erase, Memory.read, h.symm, ih]
    · by_cases hb : d = b <;> simp [Memory.erase, Memory.read, hd, hb, ih, h]

theorem Memory.read_insert_other (m : Memory) {a b : Nat} (u : Byte) (h : b ≠ a) :
    Memory.read (Memory.insert m a u) b = Memory.read m b := by
  induction m with
  | nil => simp [Memory.insert, Memory.read, h.symm]
  | cons c rest ih =>
    obtain ⟨d, t⟩ := c
    by_cases hd : a < d
    · simp [Memory.insert, hd, Memory.read, h.symm]
    · by_cases hb : d = b
      · subst hb; simp [Memory.insert, hd, Memory.read]
      · simp [Memory.insert, hd, Memory.read, hb, ih]

theorem Memory.read_insert_erase_same (m : Memory) (a : Nat) (u : Byte) :
    Memory.read (Memory.insert (Memory.erase m a) a u) a = u := by
  induction m with
  | nil => simp [Memory.erase, Memory.insert, Memory.read]
  | cons c rest ih =>
    obtain ⟨d, t⟩ := c
    simp only [Memory.erase] at ih
    by_cases hd : d = a
    · subst hd; simpa [Memory.erase] using ih
    · by_cases hlt : a < d
      · simp [Memory.erase, hd, Memory.insert, hlt, Memory.read]
      · simpa [Memory.erase, hd, Memory.insert, hlt, Memory.read] using ih

/-- Read after write, same address (R224). -/
@[simp] theorem Memory.read_write_same (m : Memory) (a : Nat) (u : Byte) :
    Memory.read (Memory.write m a u) a = u := by
  by_cases h : u = Memory.unlisted
  · simp [Memory.write, h, Memory.read_erase_same]
  · simp [Memory.write, h, Memory.read_insert_erase_same]

/-- A write leaves every other address alone (R224). -/
theorem Memory.read_write_other (m : Memory) {a b : Nat} (u : Byte) (h : b ≠ a) :
    Memory.read (Memory.write m a u) b = Memory.read m b := by
  by_cases hu : u = Memory.unlisted
  · simp [Memory.write, hu, Memory.read_erase_other m h]
  · simp [Memory.write, hu, Memory.read_insert_other _ u h, Memory.read_erase_other m h]

/-- Bytes below the first address of a run of writes are left alone. -/
theorem Memory.read_writeBytes_below (bytes : List Byte) (m : Memory) {a b : Nat} (h : b < a) :
    Memory.read (Memory.writeBytes m a bytes) b = Memory.read m b := by
  induction bytes generalizing m a with
  | nil => rfl
  | cons u rest ih =>
    rw [Memory.writeBytes, ih _ (by omega), Memory.read_write_other _ _ (by omega)]

/-- A run of writes leaves every address outside it alone (R220). -/
theorem Memory.read_writeBytes_outside (bytes : List Byte) (m : Memory) {a b : Nat}
    (h : ¬ (a ≤ b ∧ b < a + bytes.length)) : Memory.read (Memory.writeBytes m a bytes) b = Memory.read m b := by
  induction bytes generalizing m a with
  | nil => rfl
  | cons u rest ih =>
    simp only [List.length_cons] at h
    rw [Memory.writeBytes, ih _ (by omega), Memory.read_write_other _ _ (by omega)]

/-- A run of writes puts its `k`-th byte at `a + k` (R220). -/
theorem Memory.read_writeBytes_inside (bytes : List Byte) (m : Memory) (a k : Nat) (h : k < bytes.length) :
    Memory.read (Memory.writeBytes m a bytes) (a + k) = bytes[k] := by
  induction bytes generalizing m a k with
  | nil => simp at h
  | cons u rest ih =>
    cases k with
    | zero => rw [Memory.writeBytes, Nat.add_zero, Memory.read_writeBytes_below _ _ (by omega)]; simp
    | succ k =>
      have := ih (Memory.write m a u) (a + 1) k (by simpa using h)
      rw [Memory.writeBytes, show a + (k + 1) = a + 1 + k by omega, this]; simp

/-! ## The canonical form -/

theorem Memory.wf_nil : Memory.wf [] := ⟨List.Pairwise.nil, fun _ h => absurd h (by simp)⟩

theorem Memory.wf_erase {m : Memory} (h : Memory.wf m) (a : Nat) : Memory.wf (Memory.erase m a) :=
  ⟨h.1.filter _, fun c hc => h.2 c (List.mem_of_mem_filter hc)⟩

theorem Memory.mem_insert {m : Memory} {a : Nat} {u : Byte} {c : Host.Cell} (h : c ∈ Memory.insert m a u) :
    c = (a, u) ∨ c ∈ m := by
  induction m with
  | nil => simpa [Memory.insert] using h
  | cons d rest ih =>
    obtain ⟨b, t⟩ := d
    by_cases hb : a < b
    · simpa [Memory.insert, hb] using h
    · simp only [Memory.insert, hb, if_false, List.mem_cons] at h ⊢
      rcases h with h | h
      · exact .inr (.inl h)
      · rcases ih h with h | h
        · exact .inl h
        · exact .inr (.inr h)

theorem Memory.pairwise_insert {m : Memory} (h : m.Pairwise (fun c d => c.1 < d.1)) {a : Nat} (u : Byte)
    (ha : ∀ c ∈ m, c.1 ≠ a) : (Memory.insert m a u).Pairwise (fun c d => c.1 < d.1) := by
  induction m with
  | nil => simp [Memory.insert]
  | cons d rest ih =>
    obtain ⟨b, t⟩ := d
    rw [List.pairwise_cons] at h
    have hb : b ≠ a := ha (b, t) (by simp)
    by_cases hlt : a < b
    · simp only [Memory.insert, hlt, if_true, List.pairwise_cons]
      refine ⟨?_, h.1, h.2⟩
      intro c hc
      rcases List.mem_cons.mp hc with rfl | hc
      · exact hlt
      · exact lt_trans hlt (h.1 c hc)
    · simp only [Memory.insert, hlt, if_false, List.pairwise_cons]
      refine ⟨?_, ih h.2 fun c hc => ha c (List.mem_cons_of_mem _ hc)⟩
      intro c hc
      rcases Memory.mem_insert hc with rfl | hc
      · show b < a; omega
      · exact h.1 c hc

/-- A write within the address space keeps the canonical form. -/
theorem Memory.wf_write {m : Memory} (h : Memory.wf m) {a : Nat} (ha : a ≤ 0xFFF) (u : Byte) :
    Memory.wf (Memory.write m a u) := by
  by_cases hu : u = Memory.unlisted
  · simpa only [Memory.write, hu, if_true] using Memory.wf_erase h a
  · have he := Memory.wf_erase h a
    simp only [Memory.write, hu, if_false]
    refine ⟨Memory.pairwise_insert he.1 u fun c hc => ?_, fun c hc => ?_⟩
    · simpa using (List.mem_filter.mp hc).2
    · rcases Memory.mem_insert hc with rfl | hc
      · exact ⟨hu, ha⟩
      · exact he.2 c hc

/-- A run of writes within the address space keeps the canonical form. -/
theorem Memory.wf_writeBytes (bytes : List Byte) {m : Memory} (h : Memory.wf m) {a : Nat}
    (ha : a + bytes.length ≤ 0x1000) : Memory.wf (Memory.writeBytes m a bytes) := by
  induction bytes generalizing m a with
  | nil => exact h
  | cons u rest ih =>
    simp only [List.length_cons] at ha
    exact ih (Memory.wf_write h (by omega) u) (by omega)

end Sys2Proof.Machine
end

