-- ==== Sys2Proof/Laws/State.lean ====
section
/-! SUPPORT. Laws/State.lean: for each named update of State, what it does to each field, so that no later proof unfolds a
record update. -/

namespace Sys2Proof.Machine

variable (s : State)

@[simp] theorem setReg_mem (r : Reg) (b : Byte) : (s.setReg r b).mem = s.mem := rfl
@[simp] theorem setReg_v (r : Reg) (b : Byte) : (s.setReg r b).v = s.v.set r b := rfl
@[simp] theorem setReg_ireg (r : Reg) (b : Byte) : (s.setReg r b).ireg = s.ireg := rfl
@[simp] theorem setReg_pc (r : Reg) (b : Byte) : (s.setReg r b).pc = s.pc := rfl
@[simp] theorem setReg_stack (r : Reg) (b : Byte) : (s.setReg r b).stack = s.stack := rfl
@[simp] theorem setReg_sp (r : Reg) (b : Byte) : (s.setReg r b).sp = s.sp := rfl
@[simp] theorem setReg_dt (r : Reg) (b : Byte) : (s.setReg r b).dt = s.dt := rfl
@[simp] theorem setReg_st (r : Reg) (b : Byte) : (s.setReg r b).st = s.st := rfl
@[simp] theorem setReg_fb (r : Reg) (b : Byte) : (s.setReg r b).fb = s.fb := rfl
@[simp] theorem setReg_key (r : Reg) (b : Byte) : (s.setReg r b).key = s.key := rfl
@[simp] theorem setReg_redraw (r : Reg) (b : Byte) : (s.setReg r b).redraw = s.redraw := rfl
@[simp] theorem setReg_fault (r : Reg) (b : Byte) : (s.setReg r b).fault = s.fault := rfl
@[simp] theorem setReg_unkSeen (r : Reg) (b : Byte) : (s.setReg r b).unkSeen = s.unkSeen := rfl
@[simp] theorem setReg_indexRangeOk (r : Reg) (b : Byte) (n : Nat) : (s.setReg r b).indexRangeOk n ↔ s.indexRangeOk n := .rfl

@[simp] theorem setIndex_mem (w : Word) : (s.setIndex w).mem = s.mem := rfl
@[simp] theorem setIndex_v (w : Word) : (s.setIndex w).v = s.v := rfl
@[simp] theorem setIndex_ireg (w : Word) : (s.setIndex w).ireg = w := rfl
@[simp] theorem setIndex_pc (w : Word) : (s.setIndex w).pc = s.pc := rfl
@[simp] theorem setIndex_stack (w : Word) : (s.setIndex w).stack = s.stack := rfl
@[simp] theorem setIndex_sp (w : Word) : (s.setIndex w).sp = s.sp := rfl
@[simp] theorem setIndex_dt (w : Word) : (s.setIndex w).dt = s.dt := rfl
@[simp] theorem setIndex_st (w : Word) : (s.setIndex w).st = s.st := rfl
@[simp] theorem setIndex_fb (w : Word) : (s.setIndex w).fb = s.fb := rfl
@[simp] theorem setIndex_key (w : Word) : (s.setIndex w).key = s.key := rfl
@[simp] theorem setIndex_redraw (w : Word) : (s.setIndex w).redraw = s.redraw := rfl
@[simp] theorem setIndex_fault (w : Word) : (s.setIndex w).fault = s.fault := rfl
@[simp] theorem setIndex_unkSeen (w : Word) : (s.setIndex w).unkSeen = s.unkSeen := rfl
@[simp] theorem setIndex_reg (w : Word) (q : Reg) : (s.setIndex w).reg q = s.reg q := rfl

@[simp] theorem setDelay_mem (b : Byte) : (s.setDelay b).mem = s.mem := rfl
@[simp] theorem setDelay_v (b : Byte) : (s.setDelay b).v = s.v := rfl
@[simp] theorem setDelay_ireg (b : Byte) : (s.setDelay b).ireg = s.ireg := rfl
@[simp] theorem setDelay_pc (b : Byte) : (s.setDelay b).pc = s.pc := rfl
@[simp] theorem setDelay_stack (b : Byte) : (s.setDelay b).stack = s.stack := rfl
@[simp] theorem setDelay_sp (b : Byte) : (s.setDelay b).sp = s.sp := rfl
@[simp] theorem setDelay_dt (b : Byte) : (s.setDelay b).dt = b := rfl
@[simp] theorem setDelay_st (b : Byte) : (s.setDelay b).st = s.st := rfl
@[simp] theorem setDelay_fb (b : Byte) : (s.setDelay b).fb = s.fb := rfl
@[simp] theorem setDelay_key (b : Byte) : (s.setDelay b).key = s.key := rfl
@[simp] theorem setDelay_redraw (b : Byte) : (s.setDelay b).redraw = s.redraw := rfl
@[simp] theorem setDelay_fault (b : Byte) : (s.setDelay b).fault = s.fault := rfl
@[simp] theorem setDelay_unkSeen (b : Byte) : (s.setDelay b).unkSeen = s.unkSeen := rfl
@[simp] theorem setDelay_reg (b : Byte) (q : Reg) : (s.setDelay b).reg q = s.reg q := rfl

@[simp] theorem setSound_mem (b : Byte) : (s.setSound b).mem = s.mem := rfl
@[simp] theorem setSound_v (b : Byte) : (s.setSound b).v = s.v := rfl
@[simp] theorem setSound_ireg (b : Byte) : (s.setSound b).ireg = s.ireg := rfl
@[simp] theorem setSound_pc (b : Byte) : (s.setSound b).pc = s.pc := rfl
@[simp] theorem setSound_stack (b : Byte) : (s.setSound b).stack = s.stack := rfl
@[simp] theorem setSound_sp (b : Byte) : (s.setSound b).sp = s.sp := rfl
@[simp] theorem setSound_dt (b : Byte) : (s.setSound b).dt = s.dt := rfl
@[simp] theorem setSound_st (b : Byte) : (s.setSound b).st = b := rfl
@[simp] theorem setSound_fb (b : Byte) : (s.setSound b).fb = s.fb := rfl
@[simp] theorem setSound_key (b : Byte) : (s.setSound b).key = s.key := rfl
@[simp] theorem setSound_redraw (b : Byte) : (s.setSound b).redraw = s.redraw := rfl
@[simp] theorem setSound_fault (b : Byte) : (s.setSound b).fault = s.fault := rfl
@[simp] theorem setSound_unkSeen (b : Byte) : (s.setSound b).unkSeen = s.unkSeen := rfl
@[simp] theorem setSound_reg (b : Byte) (q : Reg) : (s.setSound b).reg q = s.reg q := rfl

@[simp] theorem setMem_mem (m : Memory) : (s.setMem m).mem = m := rfl
@[simp] theorem setMem_v (m : Memory) : (s.setMem m).v = s.v := rfl
@[simp] theorem setMem_ireg (m : Memory) : (s.setMem m).ireg = s.ireg := rfl
@[simp] theorem setMem_pc (m : Memory) : (s.setMem m).pc = s.pc := rfl
@[simp] theorem setMem_stack (m : Memory) : (s.setMem m).stack = s.stack := rfl
@[simp] theorem setMem_sp (m : Memory) : (s.setMem m).sp = s.sp := rfl
@[simp] theorem setMem_dt (m : Memory) : (s.setMem m).dt = s.dt := rfl
@[simp] theorem setMem_st (m : Memory) : (s.setMem m).st = s.st := rfl
@[simp] theorem setMem_fb (m : Memory) : (s.setMem m).fb = s.fb := rfl
@[simp] theorem setMem_key (m : Memory) : (s.setMem m).key = s.key := rfl
@[simp] theorem setMem_redraw (m : Memory) : (s.setMem m).redraw = s.redraw := rfl
@[simp] theorem setMem_fault (m : Memory) : (s.setMem m).fault = s.fault := rfl
@[simp] theorem setMem_unkSeen (m : Memory) : (s.setMem m).unkSeen = s.unkSeen := rfl
@[simp] theorem setMem_reg (m : Memory) (q : Reg) : (s.setMem m).reg q = s.reg q := rfl

@[simp] theorem setPc_mem (w : Word) : (s.setPc w).mem = s.mem := rfl
@[simp] theorem setPc_v (w : Word) : (s.setPc w).v = s.v := rfl
@[simp] theorem setPc_ireg (w : Word) : (s.setPc w).ireg = s.ireg := rfl
@[simp] theorem setPc_pc (w : Word) : (s.setPc w).pc = w := rfl
@[simp] theorem setPc_stack (w : Word) : (s.setPc w).stack = s.stack := rfl
@[simp] theorem setPc_sp (w : Word) : (s.setPc w).sp = s.sp := rfl
@[simp] theorem setPc_dt (w : Word) : (s.setPc w).dt = s.dt := rfl
@[simp] theorem setPc_st (w : Word) : (s.setPc w).st = s.st := rfl
@[simp] theorem setPc_fb (w : Word) : (s.setPc w).fb = s.fb := rfl
@[simp] theorem setPc_key (w : Word) : (s.setPc w).key = s.key := rfl
@[simp] theorem setPc_redraw (w : Word) : (s.setPc w).redraw = s.redraw := rfl
@[simp] theorem setPc_fault (w : Word) : (s.setPc w).fault = s.fault := rfl
@[simp] theorem setPc_unkSeen (w : Word) : (s.setPc w).unkSeen = s.unkSeen := rfl
@[simp] theorem setPc_reg (w : Word) (q : Reg) : (s.setPc w).reg q = s.reg q := rfl
@[simp] theorem setPc_indexRangeOk (w : Word) (n : Nat) : (s.setPc w).indexRangeOk n ↔ s.indexRangeOk n := .rfl

@[simp] theorem advance_mem : (s.advance).mem = s.mem := rfl
@[simp] theorem advance_v : (s.advance).v = s.v := rfl
@[simp] theorem advance_ireg : (s.advance).ireg = s.ireg := rfl
@[simp] theorem advance_pc : (s.advance).pc = s.pc + 2#16 := rfl
@[simp] theorem advance_stack : (s.advance).stack = s.stack := rfl
@[simp] theorem advance_sp : (s.advance).sp = s.sp := rfl
@[simp] theorem advance_dt : (s.advance).dt = s.dt := rfl
@[simp] theorem advance_st : (s.advance).st = s.st := rfl
@[simp] theorem advance_fb : (s.advance).fb = s.fb := rfl
@[simp] theorem advance_key : (s.advance).key = s.key := rfl
@[simp] theorem advance_redraw : (s.advance).redraw = s.redraw := rfl
@[simp] theorem advance_fault : (s.advance).fault = s.fault := rfl
@[simp] theorem advance_unkSeen : (s.advance).unkSeen = s.unkSeen := rfl
@[simp] theorem advance_reg (q : Reg) : (s.advance).reg q = s.reg q := rfl
@[simp] theorem advance_indexRangeOk (n : Nat) : (s.advance).indexRangeOk n ↔ s.indexRangeOk n := .rfl

@[simp] theorem showFrame_mem (f : Framebuffer) : (s.showFrame f).mem = s.mem := rfl
@[simp] theorem showFrame_v (f : Framebuffer) : (s.showFrame f).v = s.v := rfl
@[simp] theorem showFrame_ireg (f : Framebuffer) : (s.showFrame f).ireg = s.ireg := rfl
@[simp] theorem showFrame_pc (f : Framebuffer) : (s.showFrame f).pc = s.pc := rfl
@[simp] theorem showFrame_stack (f : Framebuffer) : (s.showFrame f).stack = s.stack := rfl
@[simp] theorem showFrame_sp (f : Framebuffer) : (s.showFrame f).sp = s.sp := rfl
@[simp] theorem showFrame_dt (f : Framebuffer) : (s.showFrame f).dt = s.dt := rfl
@[simp] theorem showFrame_st (f : Framebuffer) : (s.showFrame f).st = s.st := rfl
@[simp] theorem showFrame_fb (f : Framebuffer) : (s.showFrame f).fb = f := rfl
@[simp] theorem showFrame_key (f : Framebuffer) : (s.showFrame f).key = s.key := rfl
@[simp] theorem showFrame_redraw (f : Framebuffer) : (s.showFrame f).redraw = true := rfl
@[simp] theorem showFrame_fault (f : Framebuffer) : (s.showFrame f).fault = s.fault := rfl
@[simp] theorem showFrame_unkSeen (f : Framebuffer) : (s.showFrame f).unkSeen = s.unkSeen := rfl
@[simp] theorem showFrame_reg (f : Framebuffer) (q : Reg) : (s.showFrame f).reg q = s.reg q := rfl

@[simp] theorem raiseFatal_mem (c : FaultCode) (a : Word) (w : Option Word) : (s.raiseFatal c a w).mem = s.mem := rfl
@[simp] theorem raiseFatal_v (c : FaultCode) (a : Word) (w : Option Word) : (s.raiseFatal c a w).v = s.v := rfl
@[simp] theorem raiseFatal_ireg (c : FaultCode) (a : Word) (w : Option Word) : (s.raiseFatal c a w).ireg = s.ireg := rfl
@[simp] theorem raiseFatal_pc (c : FaultCode) (a : Word) (w : Option Word) : (s.raiseFatal c a w).pc = s.pc := rfl
@[simp] theorem raiseFatal_stack (c : FaultCode) (a : Word) (w : Option Word) : (s.raiseFatal c a w).stack = s.stack := rfl
@[simp] theorem raiseFatal_sp (c : FaultCode) (a : Word) (w : Option Word) : (s.raiseFatal c a w).sp = s.sp := rfl
@[simp] theorem raiseFatal_dt (c : FaultCode) (a : Word) (w : Option Word) : (s.raiseFatal c a w).dt = s.dt := rfl
@[simp] theorem raiseFatal_st (c : FaultCode) (a : Word) (w : Option Word) : (s.raiseFatal c a w).st = s.st := rfl
@[simp] theorem raiseFatal_fb (c : FaultCode) (a : Word) (w : Option Word) : (s.raiseFatal c a w).fb = s.fb := rfl
@[simp] theorem raiseFatal_key (c : FaultCode) (a : Word) (w : Option Word) : (s.raiseFatal c a w).key = s.key := rfl
@[simp] theorem raiseFatal_redraw (c : FaultCode) (a : Word) (w : Option Word) : (s.raiseFatal c a w).redraw = s.redraw := rfl
@[simp] theorem raiseFatal_fault (c : FaultCode) (a : Word) (w : Option Word) : (s.raiseFatal c a w).fault = some ⟨c, a, w⟩ := rfl
@[simp] theorem raiseFatal_unkSeen (c : FaultCode) (a : Word) (w : Option Word) : (s.raiseFatal c a w).unkSeen = s.unkSeen := rfl
@[simp] theorem raiseFatal_reg (c : FaultCode) (a : Word) (w : Option Word) (q : Reg) : (s.raiseFatal c a w).reg q = s.reg q := rfl

@[simp] theorem raiseIn_mem (i : Instr) (c : FaultCode) : (s.raiseIn i c).mem = s.mem := rfl
@[simp] theorem raiseIn_v (i : Instr) (c : FaultCode) : (s.raiseIn i c).v = s.v := rfl
@[simp] theorem raiseIn_ireg (i : Instr) (c : FaultCode) : (s.raiseIn i c).ireg = s.ireg := rfl
@[simp] theorem raiseIn_pc (i : Instr) (c : FaultCode) : (s.raiseIn i c).pc = s.pc := rfl
@[simp] theorem raiseIn_stack (i : Instr) (c : FaultCode) : (s.raiseIn i c).stack = s.stack := rfl
@[simp] theorem raiseIn_sp (i : Instr) (c : FaultCode) : (s.raiseIn i c).sp = s.sp := rfl
@[simp] theorem raiseIn_dt (i : Instr) (c : FaultCode) : (s.raiseIn i c).dt = s.dt := rfl
@[simp] theorem raiseIn_st (i : Instr) (c : FaultCode) : (s.raiseIn i c).st = s.st := rfl
@[simp] theorem raiseIn_fb (i : Instr) (c : FaultCode) : (s.raiseIn i c).fb = s.fb := rfl
@[simp] theorem raiseIn_key (i : Instr) (c : FaultCode) : (s.raiseIn i c).key = s.key := rfl
@[simp] theorem raiseIn_redraw (i : Instr) (c : FaultCode) : (s.raiseIn i c).redraw = s.redraw := rfl
@[simp] theorem raiseIn_fault (i : Instr) (c : FaultCode) : (s.raiseIn i c).fault = some ⟨c, s.insnAddr, some (encode i)⟩ := rfl
@[simp] theorem raiseIn_unkSeen (i : Instr) (c : FaultCode) : (s.raiseIn i c).unkSeen = s.unkSeen := rfl
@[simp] theorem raiseIn_reg (i : Instr) (c : FaultCode) (q : Reg) : (s.raiseIn i c).reg q = s.reg q := rfl

@[simp] theorem raiseUnknown_mem : (s.raiseUnknown).mem = s.mem := rfl
@[simp] theorem raiseUnknown_v : (s.raiseUnknown).v = s.v := rfl
@[simp] theorem raiseUnknown_ireg : (s.raiseUnknown).ireg = s.ireg := rfl
@[simp] theorem raiseUnknown_pc : (s.raiseUnknown).pc = s.pc := rfl
@[simp] theorem raiseUnknown_stack : (s.raiseUnknown).stack = s.stack := rfl
@[simp] theorem raiseUnknown_sp : (s.raiseUnknown).sp = s.sp := rfl
@[simp] theorem raiseUnknown_dt : (s.raiseUnknown).dt = s.dt := rfl
@[simp] theorem raiseUnknown_st : (s.raiseUnknown).st = s.st := rfl
@[simp] theorem raiseUnknown_fb : (s.raiseUnknown).fb = s.fb := rfl
@[simp] theorem raiseUnknown_key : (s.raiseUnknown).key = s.key := rfl
@[simp] theorem raiseUnknown_redraw : (s.raiseUnknown).redraw = s.redraw := rfl
@[simp] theorem raiseUnknown_fault : (s.raiseUnknown).fault = s.fault := rfl
@[simp] theorem raiseUnknown_unkSeen : (s.raiseUnknown).unkSeen = true := rfl
@[simp] theorem raiseUnknown_reg (q : Reg) : (s.raiseUnknown).reg q = s.reg q := rfl

@[simp] theorem fetchFailure_mem : (s.fetchFailure).mem = s.mem := rfl
@[simp] theorem fetchFailure_v : (s.fetchFailure).v = s.v := rfl
@[simp] theorem fetchFailure_ireg : (s.fetchFailure).ireg = s.ireg := rfl
@[simp] theorem fetchFailure_pc : (s.fetchFailure).pc = s.pc := rfl
@[simp] theorem fetchFailure_stack : (s.fetchFailure).stack = s.stack := rfl
@[simp] theorem fetchFailure_sp : (s.fetchFailure).sp = s.sp := rfl
@[simp] theorem fetchFailure_dt : (s.fetchFailure).dt = s.dt := rfl
@[simp] theorem fetchFailure_st : (s.fetchFailure).st = s.st := rfl
@[simp] theorem fetchFailure_fb : (s.fetchFailure).fb = s.fb := rfl
@[simp] theorem fetchFailure_key : (s.fetchFailure).key = s.key := rfl
@[simp] theorem fetchFailure_redraw : (s.fetchFailure).redraw = s.redraw := rfl
@[simp] theorem fetchFailure_fault : (s.fetchFailure).fault = some ⟨.addressOutOfRange, s.pc, none⟩ := rfl
@[simp] theorem fetchFailure_unkSeen : (s.fetchFailure).unkSeen = s.unkSeen := rfl
@[simp] theorem fetchFailure_reg (q : Reg) : (s.fetchFailure).reg q = s.reg q := rfl

@[simp] theorem setFlag_mem (b : Bool) : (s.setFlag b).mem = s.mem := rfl
@[simp] theorem setFlag_v (b : Bool) : (s.setFlag b).v = s.v.set vf (flagByte b) := rfl
@[simp] theorem setFlag_ireg (b : Bool) : (s.setFlag b).ireg = s.ireg := rfl
@[simp] theorem setFlag_pc (b : Bool) : (s.setFlag b).pc = s.pc := rfl
@[simp] theorem setFlag_stack (b : Bool) : (s.setFlag b).stack = s.stack := rfl
@[simp] theorem setFlag_sp (b : Bool) : (s.setFlag b).sp = s.sp := rfl
@[simp] theorem setFlag_dt (b : Bool) : (s.setFlag b).dt = s.dt := rfl
@[simp] theorem setFlag_st (b : Bool) : (s.setFlag b).st = s.st := rfl
@[simp] theorem setFlag_fb (b : Bool) : (s.setFlag b).fb = s.fb := rfl
@[simp] theorem setFlag_key (b : Bool) : (s.setFlag b).key = s.key := rfl
@[simp] theorem setFlag_redraw (b : Bool) : (s.setFlag b).redraw = s.redraw := rfl
@[simp] theorem setFlag_fault (b : Bool) : (s.setFlag b).fault = s.fault := rfl
@[simp] theorem setFlag_unkSeen (b : Bool) : (s.setFlag b).unkSeen = s.unkSeen := rfl
@[simp] theorem setFlag_indexRangeOk (b : Bool) (n : Nat) : (s.setFlag b).indexRangeOk n ↔ s.indexRangeOk n := .rfl

@[simp] theorem skipIf_mem (c : Bool) : (s.skipIf c).mem = s.mem := by cases c <;> rfl
@[simp] theorem skipIf_v (c : Bool) : (s.skipIf c).v = s.v := by cases c <;> rfl
@[simp] theorem skipIf_ireg (c : Bool) : (s.skipIf c).ireg = s.ireg := by cases c <;> rfl
@[simp] theorem skipIf_pc (c : Bool) : (s.skipIf c).pc = if c then s.pc + 2#16 else s.pc := by cases c <;> rfl
@[simp] theorem skipIf_stack (c : Bool) : (s.skipIf c).stack = s.stack := by cases c <;> rfl
@[simp] theorem skipIf_sp (c : Bool) : (s.skipIf c).sp = s.sp := by cases c <;> rfl
@[simp] theorem skipIf_dt (c : Bool) : (s.skipIf c).dt = s.dt := by cases c <;> rfl
@[simp] theorem skipIf_st (c : Bool) : (s.skipIf c).st = s.st := by cases c <;> rfl
@[simp] theorem skipIf_fb (c : Bool) : (s.skipIf c).fb = s.fb := by cases c <;> rfl
@[simp] theorem skipIf_key (c : Bool) : (s.skipIf c).key = s.key := by cases c <;> rfl
@[simp] theorem skipIf_redraw (c : Bool) : (s.skipIf c).redraw = s.redraw := by cases c <;> rfl
@[simp] theorem skipIf_fault (c : Bool) : (s.skipIf c).fault = s.fault := by cases c <;> rfl
@[simp] theorem skipIf_unkSeen (c : Bool) : (s.skipIf c).unkSeen = s.unkSeen := by cases c <;> rfl
@[simp] theorem skipIf_reg (c : Bool) (q : Reg) : (s.skipIf c).reg q = s.reg q := by cases c <;> rfl

end Sys2Proof.Machine
end

