-- ==== Sys2Proof/Laws/Ops.lean ====
section
/-! SUPPORT. Laws/Ops.lean: for each shared operation, what it can do, said once. -/

namespace Sys2Proof.Machine

/-! ## Registers -/

/-- Read after write of a register: the written one holds the value, every other is unchanged (R102). -/
theorem reg_setReg (s : State) (r q : Reg) (b : Byte) : (s.setReg r b).reg q = if q = r then b else s.reg q := by
  by_cases h : q = r
  · subst h; simp [State.reg]
  · have h' : r.val ≠ q.val := fun e => h (Fin.ext e.symm)
    simp [State.reg, h, h']

/-- The flag write is a write of VF (R103). -/
theorem reg_setFlag (s : State) (b : Bool) (q : Reg) :
    (s.setFlag b).reg q = if q = 15 then flagByte b else s.reg q := reg_setReg s 15 q _

/-- A state whose registers are those of another reads the same registers. -/
theorem reg_congr {s t : State} (h : t.v = s.v) (r : Reg) : t.reg r = s.reg r := by simp [State.reg, h]

theorem flagByte_toNat (b : Bool) : (flagByte b).toNat = if b then 1 else 0 := by cases b <;> rfl

/-! ## Program counter -/

/-- During an instruction fetched from `a`, `insnAddr` is `a` (R404). -/
theorem insnAddr_of_pc {s : State} {a : Word} (h : s.pc = a + 2#16) : s.insnAddr = a := by
  simp [State.insnAddr, h]

@[simp] theorem insnAddr_advance (s : State) : s.advance.insnAddr = s.pc := insnAddr_of_pc (advance_pc s)

/-! ## Call stack -/

/-- A push onto a stack that is not full writes at SP and increments it (R452). -/
theorem push_of_lt {s : State} (w : Word) (h : s.sp.val < 16) :
    s.push w = some { s with stack := s.stack.set s.sp.val w, sp := ⟨s.sp.val + 1, by omega⟩ } := by
  simp [State.push, h]

/-- A push onto a full stack does not happen (R452). -/
theorem push_of_full {s : State} (w : Word) (h : s.sp.val = 16) : s.push w = none := by simp [State.push, h]

/-- A pop of an empty stack does not happen (R450). -/
theorem pop_of_empty {s : State} (h : s.sp.val = 0) : s.pop = none := by
  obtain ⟨_, _, _, _, _, ⟨n, hn⟩⟩ := s
  obtain rfl : n = 0 := h
  rfl

/-- A pop decrements SP and reads the entry there, which it leaves (R450, R107). -/
theorem pop_of_succ {s : State} {k : Nat} (hk : k < 16) (h : s.sp.val = k + 1) :
    s.pop = some (s.stack[k], { s with sp := ⟨k, by omega⟩ }) := by
  obtain ⟨_, _, _, _, _, ⟨n, hn⟩⟩ := s
  obtain rfl : n = k + 1 := h
  rfl

/-! ## Framebuffer -/

/-- Read after write of a cell (R110). -/
theorem Framebuffer.get_set (f : Framebuffer) (x x' : Column) (y y' : Row) (b : Bool) :
    Framebuffer.get (Framebuffer.set f x y b) x' y' = if x' = x ∧ y' = y then b else Framebuffer.get f x' y' := by
  by_cases hy : y' = y
  · subst hy
    by_cases hx : x' = x
    · subst hx; simp [Framebuffer.get, Framebuffer.set]
    · have h' : x.val ≠ x'.val := fun e => hx (Fin.ext e.symm)
      simp [Framebuffer.get, Framebuffer.set, hx, h']
  · have h' : y.val ≠ y'.val := fun e => hy (Fin.ext e.symm)
    simp [Framebuffer.get, Framebuffer.set, hy, h']

/-- Every cell of the cleared framebuffer is off (R600). -/
@[simp] theorem Framebuffer.get_clear (x : Column) (y : Row) : Framebuffer.get Framebuffer.clear x y = false := by
  simp [Framebuffer.get, Framebuffer.clear]

/-! ## Fetch -/

/-- The fetch answers the big-endian word at PC exactly when PC is at most 0xFFE (R402, R221). -/
theorem fetchWord_eq_some_iff {s : State} {w : Word} :
    s.fetchWord = some w ↔ s.pc.toNat ≤ 0xFFE ∧
      w = wordOfBytes (Memory.read s.mem s.pc.toNat) (Memory.read s.mem (s.pc.toNat + 1)) := by
  by_cases h : s.pc.toNat ≤ 0xFFE
  · have h' : s.pc.toNat + 1 ≤ 0xFFF := by omega
    simp [State.fetchWord, inRange, h', h, eq_comm]
  · have h' : ¬ s.pc.toNat + 1 ≤ 0xFFF := by omega
    simp [State.fetchWord, inRange, h', h]

theorem fetchWord_eq_none_iff {s : State} : s.fetchWord = none ↔ 0xFFE < s.pc.toNat := by
  by_cases h : s.pc.toNat ≤ 0xFFE
  · have h' : s.pc.toNat + 1 ≤ 0xFFF := by omega
    simp [State.fetchWord, inRange, h']; omega
  · have h' : ¬ s.pc.toNat + 1 ≤ 0xFFF := by omega
    simp [State.fetchWord, inRange, h']; omega

/-! ## Block load -/

/-- The block load touches the registers V only (R555). -/
theorem loadRegs_eq (n : Nat) (s : State) : loadRegs n s = { s with v := (loadRegs n s).v } := by
  induction n with
  | zero => rfl
  | succ n ih =>
    rw [loadRegs]
    conv_lhs => rw [ih]
    rfl

/-- After the block load of `n` registers the first `n` hold the bytes from I on, and the others are unchanged (R555). -/
theorem reg_loadRegs (n : Nat) (hn : n ≤ 16) (s : State) (r : Reg) :
    (loadRegs n s).reg r = if r.val < n then Memory.read s.mem (s.indexAddr r.val) else s.reg r := by
  induction n with
  | zero => simp [loadRegs]
  | succ n ih =>
    rw [loadRegs, reg_setReg, ih (by omega)]
    have hv : (Fin.ofNat 16 n).val = n := by simp [Fin.ofNat]; omega
    by_cases h : r = Fin.ofNat 16 n
    · have hr : r.val = n := by rw [h, hv]
      rw [if_pos h, if_pos (by omega), hr]
    · have hr : r.val ≠ n := fun e => h (Fin.ext (by rw [hv, e]))
      rw [if_neg h]
      by_cases hlt : r.val < n
      · rw [if_pos hlt, if_pos (by omega)]
      · rw [if_neg hlt, if_neg (by omega)]

end Sys2Proof.Machine
end

