-- ==== Sys2Proof/Laws/Engine.lean ====
section
/-! SUPPORT. Laws/Engine.lean: everything the sprite engine can do to the canvas (R601 to R603): each cell is turned over
exactly where a set bit of the sprite falls on it, and the collision output is set exactly where one met a lit cell. -/

namespace Sys2Proof.Machine

theorem spriteColumn_val (cx : Byte) (c : Nat) : (spriteColumn cx c).val = (cx.toNat + c) % 64 := rfl

theorem spriteRow_val (cy : Byte) (r : Nat) : (spriteRow cy r).val = (cy.toNat + r) % 32 := rfl

/-- Different columns of a sprite row fall on different columns of the framebuffer (R603). -/
theorem spriteColumn_inj {cx : Byte} {c d : Nat} (hc : c < 8) (hd : d < 8) (h : spriteColumn cx c = spriteColumn cx d) :
    c = d := by
  have := congrArg Fin.val h
  rw [spriteColumn_val, spriteColumn_val] at this; omega

/-- Different rows of a sprite fall on different rows of the framebuffer (R603). -/
theorem spriteRow_inj {cy : Byte} {r q : Nat} (hr : r < 16) (hq : q < 16) (h : spriteRow cy r = spriteRow cy q) :
    r = q := by
  have := congrArg Fin.val h
  rw [spriteRow_val, spriteRow_val] at this; omega

/-- A set bit among the first `k` columns of a sprite row falls on column `px`. -/
def rowCovers (row cx : Byte) (k : Nat) (px : Column) : Prop :=
  ∃ c, c < k ∧ spriteBit row c = true ∧ px = spriteColumn cx c

theorem rowCovers_succ (row cx : Byte) (k : Nat) (px : Column) :
    rowCovers row cx (k + 1) px ↔ rowCovers row cx k px ∨ (spriteBit row k = true ∧ px = spriteColumn cx k) := by
  constructor
  · rintro ⟨c, hc, hb, hp⟩
    rcases Nat.lt_succ_iff_lt_or_eq.mp hc with h | rfl
    · exact .inl ⟨c, h, hb, hp⟩
    · exact .inr ⟨hb, hp⟩
  · rintro (⟨c, hc, hb, hp⟩ | ⟨hb, hp⟩)
    · exact ⟨c, by omega, hb, hp⟩
    · exact ⟨k, by omega, hb, hp⟩

theorem get_togglePixel (c : Canvas) (x px : Column) (y py : Row) :
    Framebuffer.get (c.togglePixel x y).fb px py =
      if px = x ∧ py = y then !Framebuffer.get c.fb px py else Framebuffer.get c.fb px py := by
  rw [Canvas.togglePixel, Framebuffer.get_set]
  by_cases h : px = x ∧ py = y
  · simp [h]
  · simp [h]

/-- The cells after the first `k` columns of a row. -/
theorem get_drawRow (row cx : Byte) (y : Row) (k : Nat) (hk : k ≤ 8) (c : Canvas) (px : Column) (py : Row) :
    (Framebuffer.get (Canvas.drawRow row cx y k c).fb px py = true) ↔
      ((Framebuffer.get c.fb px py = true) ↔ ¬ (py = y ∧ rowCovers row cx k px)) := by
  induction k with
  | zero => simp [Canvas.drawRow, rowCovers]
  | succ k ih =>
    have ih := ih (by omega)
    rw [rowCovers_succ, Canvas.drawRow]
    by_cases hb : spriteBit row k = true
    · simp only [hb, if_true, get_togglePixel, true_and]
      by_cases hp : px = spriteColumn cx k ∧ py = y
      · have hn : ¬ rowCovers row cx k px := by
          rintro ⟨c, hc, -, h⟩
          exact absurd (spriteColumn_inj (by omega) (by omega) (h.symm.trans hp.1)) (by omega)
        simp only [hn, and_false, not_false_eq_true, iff_true] at ih
        rw [if_pos hp, Bool.eq_iff_iff.mpr ih]
        simp [hp.1, hp.2]
      · rw [if_neg hp, ih]
        have : (py = y ∧ (rowCovers row cx k px ∨ px = spriteColumn cx k)) ↔ (py = y ∧ rowCovers row cx k px) := by
          constructor
          · rintro ⟨h1, h2 | h2⟩
            · exact ⟨h1, h2⟩
            · exact absurd ⟨h2, h1⟩ hp
          · rintro ⟨h1, h2⟩; exact ⟨h1, .inl h2⟩
        rw [this]
    · simp [hb, ih]

/-- The collision output after the first `k` columns of a row. -/
theorem hit_drawRow (row cx : Byte) (y : Row) (k : Nat) (hk : k ≤ 8) (c : Canvas) :
    (Canvas.drawRow row cx y k c).hit = true ↔
      c.hit = true ∨ ∃ px, rowCovers row cx k px ∧ Framebuffer.get c.fb px y = true := by
  induction k with
  | zero => simp [Canvas.drawRow, rowCovers]
  | succ k ih =>
    have ih := ih (by omega)
    rw [Canvas.drawRow]
    by_cases hb : spriteBit row k = true
    · have hn : ¬ rowCovers row cx k (spriteColumn cx k) := by
        rintro ⟨c, hc, -, h⟩
        exact absurd (spriteColumn_inj (by omega) (by omega) h) (by omega)
      have hg := get_drawRow row cx y k (by omega) c (spriteColumn cx k) y
      simp only [hn, and_false, not_false_eq_true, iff_true] at hg
      simp only [hb, if_true, Canvas.togglePixel, Bool.or_eq_true, ih, hg, rowCovers_succ, true_and]
      constructor
      · rintro ((h | ⟨px, h1, h2⟩) | h)
        · exact .inl h
        · exact .inr ⟨px, .inl h1, h2⟩
        · exact .inr ⟨_, .inr rfl, h⟩
      · rintro (h | ⟨px, h1 | rfl, h2⟩)
        · exact .inl (.inl h)
        · exact .inl (.inr ⟨px, h1, h2⟩)
        · exact .inr h2
    · simp [hb, ih, rowCovers_succ]

/-- `SpriteCovers`, row by row. -/
theorem SpriteCovers_iff (rows : Nat → Byte) (cx cy : Byte) (n : Nat) (px : Column) (py : Row) :
    SpriteCovers rows cx cy n px py ↔ ∃ r, r < n ∧ py = spriteRow cy r ∧ rowCovers (rows r) cx 8 px := by
  constructor
  · rintro ⟨r, c, hr, hc, hb, hx, hy⟩
    exact ⟨r, hr, Fin.ext hy, c, hc, hb, Fin.ext hx⟩
  · rintro ⟨r, hr, hy, c, hc, hb, hx⟩
    exact ⟨r, c, hr, hc, hb, congrArg Fin.val hx, congrArg Fin.val hy⟩

theorem SpriteCovers_succ (rows : Nat → Byte) (cx cy : Byte) (n : Nat) (px : Column) (py : Row) :
    SpriteCovers rows cx cy (n + 1) px py ↔
      SpriteCovers rows cx cy n px py ∨ (py = spriteRow cy n ∧ rowCovers (rows n) cx 8 px) := by
  simp only [SpriteCovers_iff]
  constructor
  · rintro ⟨r, hr, h⟩
    rcases Nat.lt_succ_iff_lt_or_eq.mp hr with h' | rfl
    · exact .inl ⟨r, h', h⟩
    · exact .inr h
  · rintro (⟨r, hr, h⟩ | h)
    · exact ⟨r, by omega, h⟩
    · exact ⟨n, by omega, h⟩

/-- Rows above the one being drawn do not meet it (R603). -/
theorem not_SpriteCovers_next (rows : Nat → Byte) (cx cy : Byte) (n : Nat) (hn : n < 16) (px : Column) :
    ¬ SpriteCovers rows cx cy n px (spriteRow cy n) := by
  rw [SpriteCovers_iff]
  rintro ⟨r, hr, h, -⟩
  exact absurd (spriteRow_inj hn (by omega) h) (by omega)

/-- The cells after the first `n` rows: turned over exactly where a set bit falls (R602, R603). -/
theorem get_drawSprite (rows : Nat → Byte) (cx cy : Byte) (n : Nat) (hn : n ≤ 16) (c : Canvas) (px : Column) (py : Row) :
    (Framebuffer.get (Canvas.drawSprite rows cx cy n c).fb px py = true) ↔
      ((Framebuffer.get c.fb px py = true) ↔ ¬ SpriteCovers rows cx cy n px py) := by
  induction n with
  | zero => simp [Canvas.drawSprite, SpriteCovers]
  | succ n ih =>
    have ih := ih (by omega)
    rw [Canvas.drawSprite, get_drawRow _ _ _ 8 (by omega), ih, SpriteCovers_succ]
    by_cases hy : py = spriteRow cy n
    · subst hy
      have := not_SpriteCovers_next rows cx cy n (by omega) px
      simp [this]
    · simp [hy]

/-- The collision output after the first `n` rows: set exactly where a set bit met a lit cell (R603). -/
theorem hit_drawSprite (rows : Nat → Byte) (cx cy : Byte) (n : Nat) (hn : n ≤ 16) (c : Canvas) :
    (Canvas.drawSprite rows cx cy n c).hit = true ↔
      c.hit = true ∨ ∃ px py, SpriteCovers rows cx cy n px py ∧ Framebuffer.get c.fb px py = true := by
  induction n with
  | zero => simp [Canvas.drawSprite, SpriteCovers]
  | succ n ih =>
    have ih := ih (by omega)
    have hg : ∀ px, (Framebuffer.get (Canvas.drawSprite rows cx cy n c).fb px (spriteRow cy n) = true) ↔
        (Framebuffer.get c.fb px (spriteRow cy n) = true) := fun px => by
      rw [get_drawSprite _ _ _ n (by omega)]
      simp [not_SpriteCovers_next rows cx cy n (by omega) px]
    rw [Canvas.drawSprite, hit_drawRow _ _ _ 8 (by omega), ih]
    simp only [hg, SpriteCovers_succ]
    constructor
    · rintro ((h | ⟨px, py, h1, h2⟩) | ⟨px, h1, h2⟩)
      · exact .inl h
      · exact .inr ⟨px, py, .inl h1, h2⟩
      · exact .inr ⟨px, _, .inr ⟨rfl, h1⟩, h2⟩
    · rintro (h | ⟨px, py, h1 | ⟨rfl, h1⟩, h2⟩)
      · exact .inl (.inl h)
      · exact .inl (.inr ⟨px, py, h1, h2⟩)
      · exact .inr ⟨px, h1, h2⟩

end Sys2Proof.Machine
end

