-- ==== Sys2Proof/Laws/PerInstr.lean ====
section
/-! SUPPORT. Laws/PerInstr.lean: statements made instruction by instruction. Family MatchesRow: the word of an instruction
matches the row of the opcode map (R307) that has its name, and its operands fit their fields (R301, R303). -/

namespace Sys2Proof.Laws

open Sys2Proof

/-- The instruction is well formed, and its word matches the row of R307 with its name. -/
def MatchesRow.Statement (i : Instr) : Prop :=
  i.wellFormed = true ∧ ∃ row ∈ opcodeMap, row.name = i.mnemonic ∧ row.matchesWord (encode i) = true

/-- One row of the map that the word matches settles the statement. -/
theorem matchesRow_of_row {i : Instr} (row : OpcodeRow) (hm : row ∈ opcodeMap) (hn : row.name = i.mnemonic)
    (h : encode i &&& row.mask = row.matchBits) : MatchesRow.Statement i :=
  ⟨wellFormed_all i, row, hm, hn, by simp [OpcodeRow.matchesWord, h]⟩

theorem packNNN_and (f : BitVec 4) (nnn : BitVec 12) : packNNN f nnn &&& 0xF000#16 = packNNN f 0#12 := by
  rw [show (0xF000#16 : Word) = 0xF#4 ++ 0#12 from rfl, packNNN, BitVec.and_append, packNNN,
    show (0xF#4 : BitVec 4) = BitVec.allOnes 4 from rfl, BitVec.and_allOnes, BitVec.and_zero]

theorem packXNN_and_family (f : BitVec 4) (x : Reg) (nn : Byte) :
    packXNN f x nn &&& 0xF000#16 = packXNN f 0 0#8 := by
  rw [show (0xF000#16 : Word) = 0xF#4 ++ 0#4 ++ 0#8 from rfl, packXNN, BitVec.and_append, BitVec.and_append, packXNN,
    show (0xF#4 : BitVec 4) = BitVec.allOnes 4 from rfl, BitVec.and_allOnes, BitVec.and_zero, BitVec.and_zero]
  rfl

theorem packXNN_and_low (f : BitVec 4) (x : Reg) (nn : Byte) : packXNN f x nn &&& 0xF0FF#16 = packXNN f 0 nn := by
  rw [show (0xF0FF#16 : Word) = 0xF#4 ++ 0#4 ++ 0xFF#8 from rfl, packXNN, BitVec.and_append, BitVec.and_append, packXNN,
    show (0xF#4 : BitVec 4) = BitVec.allOnes 4 from rfl, show (0xFF#8 : BitVec 8) = BitVec.allOnes 8 from rfl,
    BitVec.and_allOnes, BitVec.and_allOnes, BitVec.and_zero]
  rfl

theorem packXYN_and_family (f : BitVec 4) (x y : Reg) (n : BitVec 4) :
    packXYN f x y n &&& 0xF000#16 = packXYN f 0 0 0#4 := by
  rw [show (0xF000#16 : Word) = 0xF#4 ++ 0#4 ++ 0#4 ++ 0#4 from rfl, packXYN, BitVec.and_append, BitVec.and_append,
    BitVec.and_append, packXYN, show (0xF#4 : BitVec 4) = BitVec.allOnes 4 from rfl, BitVec.and_allOnes, BitVec.and_zero,
    BitVec.and_zero, BitVec.and_zero]
  rfl

theorem packXYN_and_low (f : BitVec 4) (x y : Reg) (n : BitVec 4) :
    packXYN f x y n &&& 0xF00F#16 = packXYN f 0 0 n := by
  rw [show (0xF00F#16 : Word) = 0xF#4 ++ 0#4 ++ 0#4 ++ 0xF#4 from rfl, packXYN, BitVec.and_append, BitVec.and_append,
    BitVec.and_append, packXYN, show (0xF#4 : BitVec 4) = BitVec.allOnes 4 from rfl, BitVec.and_allOnes,
    BitVec.and_allOnes, BitVec.and_zero, BitVec.and_zero]
  rfl

theorem MatchesRow.cls : MatchesRow.Statement .cls :=
  matchesRow_of_row ⟨"CLS", 0xFFFF#16, 0x00E0#16⟩ (by decide) rfl rfl

theorem MatchesRow.ret : MatchesRow.Statement .ret :=
  matchesRow_of_row ⟨"RET", 0xFFFF#16, 0x00EE#16⟩ (by decide) rfl rfl

theorem MatchesRow.jp (nnn : BitVec 12) : MatchesRow.Statement (.jp nnn) :=
  matchesRow_of_row ⟨"JP", 0xF000#16, 0x1000#16⟩ (by decide) rfl (packNNN_and _ _)

theorem MatchesRow.call (nnn : BitVec 12) : MatchesRow.Statement (.call nnn) :=
  matchesRow_of_row ⟨"CALL", 0xF000#16, 0x2000#16⟩ (by decide) rfl (packNNN_and _ _)

theorem MatchesRow.seImm (x : Reg) (nn : Byte) : MatchesRow.Statement (.seImm x nn) :=
  matchesRow_of_row ⟨"SE_IMM", 0xF000#16, 0x3000#16⟩ (by decide) rfl (packXNN_and_family _ _ _)

theorem MatchesRow.sneImm (x : Reg) (nn : Byte) : MatchesRow.Statement (.sneImm x nn) :=
  matchesRow_of_row ⟨"SNE_IMM", 0xF000#16, 0x4000#16⟩ (by decide) rfl (packXNN_and_family _ _ _)

theorem MatchesRow.seReg (x : Reg) (y : Reg) : MatchesRow.Statement (.seReg x y) :=
  matchesRow_of_row ⟨"SE_REG", 0xF00F#16, 0x5000#16⟩ (by decide) rfl (packXYN_and_low _ _ _ _)

theorem MatchesRow.ldImm (x : Reg) (nn : Byte) : MatchesRow.Statement (.ldImm x nn) :=
  matchesRow_of_row ⟨"LD_IMM", 0xF000#16, 0x6000#16⟩ (by decide) rfl (packXNN_and_family _ _ _)

theorem MatchesRow.addImm (x : Reg) (nn : Byte) : MatchesRow.Statement (.addImm x nn) :=
  matchesRow_of_row ⟨"ADD_IMM", 0xF000#16, 0x7000#16⟩ (by decide) rfl (packXNN_and_family _ _ _)

theorem MatchesRow.ldReg (x : Reg) (y : Reg) : MatchesRow.Statement (.ldReg x y) :=
  matchesRow_of_row ⟨"LD_REG", 0xF00F#16, 0x8000#16⟩ (by decide) rfl (packXYN_and_low _ _ _ _)

theorem MatchesRow.or (x : Reg) (y : Reg) : MatchesRow.Statement (.or x y) :=
  matchesRow_of_row ⟨"OR", 0xF00F#16, 0x8001#16⟩ (by decide) rfl (packXYN_and_low _ _ _ _)

theorem MatchesRow.and (x : Reg) (y : Reg) : MatchesRow.Statement (.and x y) :=
  matchesRow_of_row ⟨"AND", 0xF00F#16, 0x8002#16⟩ (by decide) rfl (packXYN_and_low _ _ _ _)

theorem MatchesRow.xor (x : Reg) (y : Reg) : MatchesRow.Statement (.xor x y) :=
  matchesRow_of_row ⟨"XOR", 0xF00F#16, 0x8003#16⟩ (by decide) rfl (packXYN_and_low _ _ _ _)

theorem MatchesRow.addReg (x : Reg) (y : Reg) : MatchesRow.Statement (.addReg x y) :=
  matchesRow_of_row ⟨"ADD_REG", 0xF00F#16, 0x8004#16⟩ (by decide) rfl (packXYN_and_low _ _ _ _)

theorem MatchesRow.sub (x : Reg) (y : Reg) : MatchesRow.Statement (.sub x y) :=
  matchesRow_of_row ⟨"SUB", 0xF00F#16, 0x8005#16⟩ (by decide) rfl (packXYN_and_low _ _ _ _)

theorem MatchesRow.shr (x : Reg) (y : Reg) : MatchesRow.Statement (.shr x y) :=
  matchesRow_of_row ⟨"SHR", 0xF00F#16, 0x8006#16⟩ (by decide) rfl (packXYN_and_low _ _ _ _)

theorem MatchesRow.subn (x : Reg) (y : Reg) : MatchesRow.Statement (.subn x y) :=
  matchesRow_of_row ⟨"SUBN", 0xF00F#16, 0x8007#16⟩ (by decide) rfl (packXYN_and_low _ _ _ _)

theorem MatchesRow.shl (x : Reg) (y : Reg) : MatchesRow.Statement (.shl x y) :=
  matchesRow_of_row ⟨"SHL", 0xF00F#16, 0x800E#16⟩ (by decide) rfl (packXYN_and_low _ _ _ _)

theorem MatchesRow.ldI (nnn : BitVec 12) : MatchesRow.Statement (.ldI nnn) :=
  matchesRow_of_row ⟨"LD_I", 0xF000#16, 0xA000#16⟩ (by decide) rfl (packNNN_and _ _)

theorem MatchesRow.drw (x : Reg) (y : Reg) (n : BitVec 4) : MatchesRow.Statement (.drw x y n) :=
  matchesRow_of_row ⟨"DRW", 0xF000#16, 0xD000#16⟩ (by decide) rfl (packXYN_and_family _ _ _ _)

theorem MatchesRow.ldVxDt (x : Reg) : MatchesRow.Statement (.ldVxDt x) :=
  matchesRow_of_row ⟨"LD_VX_DT", 0xF0FF#16, 0xF007#16⟩ (by decide) rfl (packXNN_and_low _ _ _)

theorem MatchesRow.ldDtVx (x : Reg) : MatchesRow.Statement (.ldDtVx x) :=
  matchesRow_of_row ⟨"LD_DT_VX", 0xF0FF#16, 0xF015#16⟩ (by decide) rfl (packXNN_and_low _ _ _)

theorem MatchesRow.ldStVx (x : Reg) : MatchesRow.Statement (.ldStVx x) :=
  matchesRow_of_row ⟨"LD_ST_VX", 0xF0FF#16, 0xF018#16⟩ (by decide) rfl (packXNN_and_low _ _ _)

theorem MatchesRow.addIVx (x : Reg) : MatchesRow.Statement (.addIVx x) :=
  matchesRow_of_row ⟨"ADD_I_VX", 0xF0FF#16, 0xF01E#16⟩ (by decide) rfl (packXNN_and_low _ _ _)

theorem MatchesRow.ldFVx (x : Reg) : MatchesRow.Statement (.ldFVx x) :=
  matchesRow_of_row ⟨"LD_F_VX", 0xF0FF#16, 0xF029#16⟩ (by decide) rfl (packXNN_and_low _ _ _)

theorem MatchesRow.ldBVx (x : Reg) : MatchesRow.Statement (.ldBVx x) :=
  matchesRow_of_row ⟨"LD_B_VX", 0xF0FF#16, 0xF033#16⟩ (by decide) rfl (packXNN_and_low _ _ _)

theorem MatchesRow.ldMemVx (x : Reg) : MatchesRow.Statement (.ldMemVx x) :=
  matchesRow_of_row ⟨"LD_MEM_VX", 0xF0FF#16, 0xF055#16⟩ (by decide) rfl (packXNN_and_low _ _ _)

theorem MatchesRow.ldVxMem (x : Reg) : MatchesRow.Statement (.ldVxMem x) :=
  matchesRow_of_row ⟨"LD_VX_MEM", 0xF0FF#16, 0xF065#16⟩ (by decide) rfl (packXNN_and_low _ _ _)

end Sys2Proof.Laws
end

