-- ==== Sys2Proof/Laws/Step.lean ====
section
/-! SUPPORT. Laws/Step.lean: what STEP does in each of its four cases (R400), and what executing an instruction can do: it
always answers a next state, with no error or with the one fatal error it can raise, taken as R711 says. -/

namespace Sys2Proof.Machine

/-! ## The four cases of STEP -/

theorem step_of_halted {s : State} {f : FaultRecord} (hf : s.fault = some f) : step s = .next s := by
  simp [step, hf, State.haltedStep]

theorem step_of_fetchFailure {s : State} (hf : s.fault = none) (hw : s.fetchWord = none) :
    step s = .next s.fetchFailure := by
  simp [step, hf, hw]

theorem step_of_unknown {s : State} {w : Word} {why : NotInstr} (hf : s.fault = none) (hw : s.fetchWord = some w)
    (hd : decodeWord w = .unknown why) : step s = .next s.advance.raiseUnknown := by
  simp [step, hf, hw, hd]

theorem step_of_instr {s : State} {w : Word} {i : Instr} (hf : s.fault = none) (hw : s.fetchWord = some w)
    (hd : decodeWord w = .instr i) : step s = exec i s.advance := by
  simp [step, hf, hw, hd]

/-- Every state is in one of the four cases. -/
theorem step_cases (s : State) :
    (∃ f, s.fault = some f) ∨ (s.fault = none ∧ s.fetchWord = none) ∨
    (∃ w why, s.fault = none ∧ s.fetchWord = some w ∧ decodeWord w = .unknown why) ∨
    (∃ w i, s.fault = none ∧ s.fetchWord = some w ∧ decodeWord w = .instr i) := by
  cases hf : s.fault with
  | some f => exact .inl ⟨f, rfl⟩
  | none =>
    cases hw : s.fetchWord with
    | none => exact .inr (.inl ⟨rfl, rfl⟩)
    | some w =>
      cases hd : decodeWord w with
      | unknown why => exact .inr (.inr (.inl ⟨w, why, rfl, rfl, hd⟩))
      | instr i => exact .inr (.inr (.inr ⟨w, i, rfl, rfl, hd⟩))

/-! ## The record STEP returns in each case -/

theorem stepResult_of_halted {s : State} {f : FaultRecord} (hf : s.fault = some f) (t : State) :
    stepResult s t = ⟨.halted, s.pc, none, some f⟩ := by
  simp [stepResult, hf]

theorem stepResult_of_fetchFailure {s : State} (hf : s.fault = none) (hw : s.fetchWord = none) (t : State) :
    stepResult s t = ⟨.addressOutOfRange, s.pc, none, none⟩ := by
  simp [stepResult, hf, hw]

theorem stepResult_of_unknown {s : State} {w : Word} {why : NotInstr} (hf : s.fault = none)
    (hw : s.fetchWord = some w) (hd : decodeWord w = .unknown why) (t : State) :
    stepResult s t = ⟨.unknownOpcode, s.pc, some w, none⟩ := by
  simp [stepResult, hf, hw, hd]

theorem stepResult_of_ok {s t : State} {w : Word} {i : Instr} (hf : s.fault = none) (hw : s.fetchWord = some w)
    (hd : decodeWord w = .instr i) (ht : t.fault = none) : stepResult s t = ⟨.ok, s.pc, some w, none⟩ := by
  simp [stepResult, hf, hw, hd, ht]

theorem stepResult_of_fault {s t : State} {w : Word} {i : Instr} {f : FaultRecord} (hf : s.fault = none)
    (hw : s.fetchWord = some w) (hd : decodeWord w = .instr i) (ht : t.fault = some f) :
    stepResult s t = ⟨f.code.result, s.pc, some w, none⟩ := by
  simp [stepResult, hf, hw, hd, ht]

theorem perform_step {s t : State} (h : step s = .next t) :
    perform .step s = .next (t, .step (stepResult s t)) := by
  simp [perform, h]

/-! ## Executing one instruction -/

/-- The two cases of a push. -/
theorem push_cases (s : State) (w : Word) :
    (s.sp.val = 16 ∧ s.push w = none) ∨
    ∃ h : s.sp.val < 16,
      s.push w = some { s with stack := s.stack.set s.sp.val w, sp := ⟨s.sp.val + 1, by omega⟩ } := by
  by_cases h : s.sp.val < 16
  · exact .inr ⟨h, push_of_lt w h⟩
  · have := s.sp.isLt
    exact .inl ⟨by omega, push_of_full w (by omega)⟩

/-- The two cases of a pop. -/
theorem pop_cases (s : State) :
    (s.sp.val = 0 ∧ s.pop = none) ∨
    ∃ (k : Nat) (hk : k < 16), s.sp.val = k + 1 ∧ s.pop = some (s.stack[k], { s with sp := ⟨k, by omega⟩ }) := by
  rcases h : s.sp.val with _ | k
  · exact .inl ⟨rfl, pop_of_empty h⟩
  · exact .inr ⟨k, by have := s.sp.isLt; omega, rfl, pop_of_succ _ h⟩

theorem exec_ret_of_empty {s : State} (h : s.sp.val = 0) : exec .ret s = .next (s.raiseIn .ret .stackUnderflow) := by
  simp [exec, execRet, pop_of_empty h]

theorem exec_ret_of_succ {s : State} {k : Nat} (hk : k < 16) (h : s.sp.val = k + 1) :
    exec .ret s = .next { s with sp := ⟨k, by omega⟩, pc := s.stack[k] } := by
  simp [exec, execRet, pop_of_succ hk h, State.setPc]

theorem exec_call_of_full {s : State} (nnn : BitVec 12) (h : s.sp.val = 16) :
    exec (.call nnn) s = .next (s.raiseIn (.call nnn) .stackOverflow) := by
  simp [exec, execCall, push_of_full _ h]

theorem exec_call_of_lt {s : State} (nnn : BitVec 12) (h : s.sp.val < 16) :
    exec (.call nnn) s = .next
      { s with stack := s.stack.set s.sp.val s.pc, sp := ⟨s.sp.val + 1, by omega⟩, pc := absolute nnn } := by
  simp [exec, execCall, push_of_lt _ h, State.setPc]

/-- The range check as one comparison of the highest address (R211). -/
theorem indexRangeOk_iff (s : State) (count : Nat) :
    s.indexRangeOk count ↔ count = 0 ∨ s.ireg.toNat + count ≤ 0x1000 := by
  simp only [State.indexRangeOk, rangeOk, inRange, Config.lastAddress]; omega

/-- Executing an instruction always answers a next state (R408). -/
theorem exec_answers (i : Instr) (s : State) : ∃ t, exec i s = .next t := by
  cases i with
  | ret => simp only [exec, execRet]; split <;> exact ⟨_, rfl⟩
  | call nnn => simp only [exec, execCall]; split <;> exact ⟨_, rfl⟩
  | drw x y n => simp only [exec, execDrw]; split <;> exact ⟨_, rfl⟩
  | ldBVx x => simp only [exec, execLdBVx]; split <;> exact ⟨_, rfl⟩
  | ldMemVx x => simp only [exec, execLdMemVx]; split <;> exact ⟨_, rfl⟩
  | ldVxMem x => simp only [exec, execLdVxMem]; split <;> exact ⟨_, rfl⟩
  | _ => exact ⟨_, rfl⟩

/-- Every STEP answers a next state (R408). -/
theorem step_answers (s : State) : ∃ t, step s = .next t := by
  rcases step_cases s with ⟨f, hf⟩ | ⟨hf, hw⟩ | ⟨w, why, hf, hw, hd⟩ | ⟨w, i, hf, hw, hd⟩
  · exact ⟨_, step_of_halted hf⟩
  · exact ⟨_, step_of_fetchFailure hf hw⟩
  · exact ⟨_, step_of_unknown hf hw hd⟩
  · rw [step_of_instr hf hw hd]; exact exec_answers i _

/-- A fatal error taken by the instruction fetched from `s.pc` (R711). -/
theorem raiseIn_advance (s : State) (i : Instr) (c : FaultCode) :
    s.advance.raiseIn i c = { s with pc := s.pc + 2#16, fault := some ⟨c, s.pc, some (encode i)⟩ } := by
  rw [State.raiseIn, insnAddr_advance]; rfl

/-! ## Fetching -/

/-- A fetch from any PC in range reads bytes of memory as it stands (R402, R233). -/
theorem fetchesFrom_of_reads {t : State} {byteAt : Nat → Byte → Prop}
    (h : ∀ a, a ≤ 0xFFF → byteAt a (Memory.read t.mem a)) : FetchesFrom t byteAt := fun _ hp =>
  ⟨_, _, fetchWord_eq_some_iff.mpr ⟨hp, rfl⟩, h _ (by omega), h _ (by omega)⟩

@[simp] theorem withFetchWord_fault (s : State) (nbits w : Nat) : (s.withFetchWord nbits w).fault = none := rfl

theorem withFetchWord_pc_of_le {s : State} (h : s.pc.toNat ≤ 0xFFE) (nbits w : Nat) :
    (s.withFetchWord nbits w).pc = s.pc := by
  rw [State.withFetchWord, if_pos (by simp only [inRange, Config.lastAddress]; omega)]

theorem withFetchWord_pc_of_gt {s : State} (h : 0xFFE < s.pc.toNat) (nbits w : Nat) :
    (s.withFetchWord nbits w).pc = 0x200#16 := by
  rw [State.withFetchWord, if_neg (by simp only [inRange, Config.lastAddress]; omega)]; rfl

theorem withFetchWord_mem (s : State) (nbits w : Nat) :
    (s.withFetchWord nbits w).mem = Memory.writeBytes s.mem (s.withFetchWord nbits w).pc.toNat
      [highByte (tableWord nbits w), lowByte (tableWord nbits w)] := rfl

/-- The word placed is the one fetched, from every state (R221). -/
theorem fetchWord_withFetchWord (s : State) (nbits w : Nat) :
    (s.withFetchWord nbits w).fetchWord = some (tableWord nbits w) := by
  have hp : (s.withFetchWord nbits w).pc.toNat ≤ 0xFFE := by
    by_cases h : s.pc.toNat ≤ 0xFFE
    · rw [withFetchWord_pc_of_le h]; exact h
    · rw [withFetchWord_pc_of_gt (by omega)]; decide
  have read := Memory.read_writeBytes_inside [highByte (tableWord nbits w), lowByte (tableWord nbits w)] s.mem
    (s.withFetchWord nbits w).pc.toNat
  have hi := read 0 (by simp)
  rw [Nat.add_zero] at hi
  refine fetchWord_eq_some_iff.mpr ⟨hp, ?_⟩
  rw [withFetchWord_mem, hi, read 1 (by simp)]
  exact (wordOfBytes_bytes _).symm

end Sys2Proof.Machine
end

