-- ==== Sys2Proof/Tests/Slice0.lean ====
section
/-! SUPPORT. Tests/Slice0.lean: the model's own tests. Expected results come from spec/95_test_vectors.md (T and E numbers) or
from a rule worked by hand; each is one operation on a small state. -/

namespace Sys2Proof.Tests

open Sys2Proof Sys2Proof.Machine

/-! ## WellFormed: an operand too large for its field is refused -/

theorem test_wf_register_index_16_refused : operandsFit [(4, 16)] = false := by decide

theorem test_wf_row_count_16_refused : operandsFit [(4, 0), (4, 0), (4, 16)] = false := by decide

theorem test_wf_imm8_256_refused : operandsFit [(4, 0), (8, 256)] = false := by decide

theorem test_wf_addr12_4096_refused : operandsFit [(12, 4096)] = false := by decide

theorem test_wf_largest_accepted : operandsFit [(4, 15), (8, 255), (12, 4095)] = true := by decide

theorem test_wf_drw_well_formed : (Instr.drw 15 15 15#4).wellFormed = true := by decide

/-! ## Decoding: each constructor from a word written out from R307 -/

theorem test_decode_cls : decodeWord 0b0000000011100000#16 = .instr .cls := by decide

theorem test_decode_ret : decodeWord 0b0000000011101110#16 = .instr .ret := by decide

theorem test_decode_jp : decodeWord 0b0001101010111100#16 = .instr (.jp 0xABC#12) := by decide

theorem test_decode_call : decodeWord 0b0010001100000001#16 = .instr (.call 0x301#12) := by decide

theorem test_decode_seImm : decodeWord 0b0011101000010010#16 = .instr (.seImm 10 0x12#8) := by decide

theorem test_decode_sneImm : decodeWord 0b0100000111111110#16 = .instr (.sneImm 1 0xFE#8) := by decide

theorem test_decode_seReg : decodeWord 0b0101000100100000#16 = .instr (.seReg 1 2) := by decide

theorem test_decode_ldImm : decodeWord 0b0110101001111011#16 = .instr (.ldImm 10 0x7B#8) := by decide

theorem test_decode_addImm : decodeWord 0b0111000111111111#16 = .instr (.addImm 1 0xFF#8) := by decide

theorem test_decode_ldReg : decodeWord 0b1000001011110000#16 = .instr (.ldReg 2 15) := by decide

theorem test_decode_or : decodeWord 0b1000000100100001#16 = .instr (.or 1 2) := by decide

theorem test_decode_and : decodeWord 0b1000000100100010#16 = .instr (.and 1 2) := by decide

theorem test_decode_xor : decodeWord 0b1000000100100011#16 = .instr (.xor 1 2) := by decide

theorem test_decode_addReg : decodeWord 0b1000000100100100#16 = .instr (.addReg 1 2) := by decide

theorem test_decode_sub : decodeWord 0b1000000100100101#16 = .instr (.sub 1 2) := by decide

theorem test_decode_shr : decodeWord 0b1000001101110110#16 = .instr (.shr 3 7) := by decide

theorem test_decode_subn : decodeWord 0b1000000100100111#16 = .instr (.subn 1 2) := by decide

theorem test_decode_shl : decodeWord 0b1000001110101110#16 = .instr (.shl 3 10) := by decide

theorem test_decode_ldI : decodeWord 0b1010001100000000#16 = .instr (.ldI 0x300#12) := by decide

theorem test_decode_drw : decodeWord 0b1101000100100101#16 = .instr (.drw 1 2 5#4) := by decide

theorem test_decode_ldVxDt : decodeWord 0b1111001100000111#16 = .instr (.ldVxDt 3) := by decide

theorem test_decode_ldDtVx : decodeWord 0b1111001100010101#16 = .instr (.ldDtVx 3) := by decide

theorem test_decode_ldStVx : decodeWord 0b1111001100011000#16 = .instr (.ldStVx 3) := by decide

theorem test_decode_addIVx : decodeWord 0b1111001100011110#16 = .instr (.addIVx 3) := by decide

theorem test_decode_ldFVx : decodeWord 0b1111001100101001#16 = .instr (.ldFVx 3) := by decide

theorem test_decode_ldBVx : decodeWord 0b1111001100110011#16 = .instr (.ldBVx 3) := by decide

theorem test_decode_ldMemVx : decodeWord 0b1111001101010101#16 = .instr (.ldMemVx 3) := by decide

theorem test_decode_ldVxMem : decodeWord 0b1111001101100101#16 = .instr (.ldVxMem 3) := by decide

/-- T3 to T14, words of every row of R309. -/
theorem test_decode_unknown_words :
    [0x0000#16, 0x01E0#16, 0x00E1#16, 0x5121#16, 0x8008#16, 0x800F#16, 0x9120#16, 0xB123#16, 0xC0FF#16, 0xE09E#16,
      0xF00A#16, 0xF0FF#16].map decodeWord =
    [.unknown .family0, .unknown .family0, .unknown .family0, .unknown .family5, .unknown .family8, .unknown .family8,
      .unknown .family9, .unknown .familyB, .unknown .familyC, .unknown .familyE, .unknown .familyF,
      .unknown .familyF] := by decide

theorem test_decode_one_byte : decodeBytes [0x6A#8] = (.unknown .tooShort, [0x6A#8]) := by decide

theorem test_decode_takes_two_bytes : decodeBytes [0x13#8, 0x00#8, 0xFF#8] = (.instr (.jp 0x300#12), [0xFF#8]) := by
  decide

theorem test_encode_drw : encode (.drw 1 2 5#4) = 0xD125#16 := by decide

theorem test_encodeBytes_call : encodeBytes (.call 0x301#12) = [0x23#8, 0x01#8] := by decide

theorem test_tableWord_decodes : decodeTableWord 16 0xF065 = some (.ldVxMem 0) := by decide

/-! ## One STEP from a small state -/

/-- The reset state with a word at PC (the start of the vectors of 95_test_vectors.md). -/
def startAt (w : Word) : State := State.reset.withFetchWord 16 w.toNat

/-- The state with the bytes from an address on. -/
def withBytes (s : State) (a : Nat) (bytes : List Byte) : State := s.setMem (Memory.writeBytes s.mem a bytes)

/-- The state with SP and the top stack entry set. -/
def withStack (s : State) (sp : Fin 17) (k : Fin 16) (w : Word) : State :=
  { s with sp := sp, stack := s.stack.set k.val w }

/-- Does STEP answer a next state with the property? -/
def stepTo (s : State) (p : State → Bool) : Bool :=
  match step s with
  | .next t => p t
  | .fault _ => false
  | .refused _ => false

/-- T1. -/
theorem test_step_at_reset :
    stepTo (startAt 0x6012#16) (fun t => t.reg 0 == 0x12#8 && t.pc == 0x202#16 && t.fault.isNone) = true := by decide

/-- T3. -/
theorem test_unknown_word : stepTo (startAt 0x0000#16)
    (fun t => t.pc == 0x202#16 && t.unkSeen && t.fault.isNone) = true := by decide

/-- T16. -/
theorem test_fetch_at_fff : stepTo (State.reset.setPc 0xFFF#16)
    (fun t => t.pc == 0xFFF#16 && t.fault == some ⟨.addressOutOfRange, 0xFFF#16, none⟩) = true := by decide

/-- T2, the last legal fetch. -/
theorem test_fetch_at_ffe : stepTo ((State.reset.setPc 0xFFE#16).withFetchWord 16 0x6012)
    (fun t => t.pc == 0x1000#16 && t.reg 0 == 0x12#8) = true := by decide

/-- T18. -/
theorem test_halted : stepTo { startAt 0x6001#16 with fault := some ⟨.stackOverflow, 0x200#16, some 0x2200#16⟩ }
    (fun t => t.pc == 0x200#16 && t.reg 0 == 0#8) = true := by decide

/-- T120. -/
theorem test_cls : stepTo { startAt 0x00E0#16 with fb := Framebuffer.set Framebuffer.clear 63 31 true }
    (fun t => !Framebuffer.get t.fb 63 31 && t.redraw) = true := by decide

/-- T21. -/
theorem test_ret_full_stack : stepTo (withStack (startAt 0x00EE#16) 16 15 0x31E#16)
    (fun t => t.pc == 0x31E#16 && t.sp == 15) = true := by decide

/-- T22. -/
theorem test_ret_empty_stack : stepTo (startAt 0x00EE#16)
    (fun t => t.pc == 0x202#16 && t.fault == some ⟨.stackUnderflow, 0x200#16, some 0x00EE#16⟩) = true := by decide

/-- T24. -/
theorem test_jp : stepTo (startAt 0x1FFF#16) (fun t => t.pc == 0xFFF#16) = true := by decide

/-- T27. -/
theorem test_call_last_entry : stepTo (withStack (startAt 0x2300#16) 15 0 0#16)
    (fun t => t.pc == 0x300#16 && t.sp == 16 && t.stack[15] == 0x202#16) = true := by decide

/-- T28. -/
theorem test_call_full_stack : stepTo (withStack (startAt 0x2300#16) 16 0 0#16)
    (fun t => t.pc == 0x202#16 && t.sp == 16 && t.fault == some ⟨.stackOverflow, 0x200#16, some 0x2300#16⟩) = true := by
  decide

/-- T29. -/
theorem test_seImm_taken : stepTo ((startAt 0x3012#16).setReg 0 0x12#8) (fun t => t.pc == 0x204#16) = true := by decide

/-- T32. -/
theorem test_sneImm_not_taken : stepTo ((startAt 0x4012#16).setReg 0 0x12#8) (fun t => t.pc == 0x202#16) = true := by
  decide

/-- T34. -/
theorem test_seReg_not_taken : stepTo (((startAt 0x5120#16).setReg 1 0x40#8).setReg 2 0x41#8)
    (fun t => t.pc == 0x202#16) = true := by decide

/-- T41. -/
theorem test_ldImm_vf : stepTo (startAt 0x6FFF#16) (fun t => t.reg 15 == 0xFF#8) = true := by decide

/-- T44, no carry flag. -/
theorem test_addImm_wraps : stepTo (((startAt 0x7101#16).setReg 1 0xFF#8).setReg 15 7#8)
    (fun t => t.reg 1 == 0#8 && t.reg 15 == 7#8) = true := by decide

/-- T46. -/
theorem test_ldReg : stepTo ((startAt 0x82F0#16).setReg 15 1#8) (fun t => t.reg 2 == 1#8) = true := by decide

/-- T47, VF not reset. -/
theorem test_or : stepTo ((((startAt 0x8011#16).setReg 0 0xF0#8).setReg 1 0x0F#8).setReg 15 5#8)
    (fun t => t.reg 0 == 0xFF#8 && t.reg 15 == 5#8) = true := by decide

/-- T48. -/
theorem test_and : stepTo ((((startAt 0x8012#16).setReg 0 0xF0#8).setReg 1 0x3C#8).setReg 15 5#8)
    (fun t => t.reg 0 == 0x30#8 && t.reg 15 == 5#8) = true := by decide

/-- T50. -/
theorem test_xor_self : stepTo ((startAt 0x8003#16).setReg 0 0x5A#8) (fun t => t.reg 0 == 0#8) = true := by decide

/-- T53, E2. -/
theorem test_addReg_carry : stepTo (((startAt 0x8014#16).setReg 0 0xFF#8).setReg 1 1#8)
    (fun t => t.reg 0 == 0#8 && t.reg 15 == 1#8) = true := by decide

/-- T58, the sum is latched before VF is written. -/
theorem test_addReg_vf_source : stepTo (((startAt 0x80F4#16).setReg 0 1#8).setReg 15 1#8)
    (fun t => t.reg 0 == 2#8 && t.reg 15 == 0#8) = true := by decide

/-- T62, the flag of equal operands. -/
theorem test_sub_equal : stepTo ((((startAt 0x8015#16).setReg 0 3#8).setReg 1 3#8).setReg 15 1#8)
    (fun t => t.reg 0 == 0#8 && t.reg 15 == 0#8) = true := by decide

/-- T65, the difference reads VF after the flag write. -/
theorem test_sub_vf_destination : stepTo (((startAt 0x8F15#16).setReg 15 5#8).setReg 1 3#8)
    (fun t => t.reg 15 == 0xFE#8) = true := by decide

/-- T71, `y` ignored. -/
theorem test_shr : stepTo (((startAt 0x8376#16).setReg 3 0x81#8).setReg 7 2#8)
    (fun t => t.reg 3 == 0x40#8 && t.reg 15 == 1#8 && t.reg 7 == 2#8) = true := by decide

/-- T77. -/
theorem test_subn_vf_source : stepTo (((startAt 0x80F7#16).setReg 0 3#8).setReg 15 5#8)
    (fun t => t.reg 0 == 0xFE#8 && t.reg 15 == 1#8) = true := by decide

/-- T75, the flag of equal operands. -/
theorem test_subn_equal : stepTo ((((startAt 0x8017#16).setReg 0 7#8).setReg 1 7#8).setReg 15 1#8)
    (fun t => t.reg 0 == 0#8 && t.reg 15 == 0#8) = true := by decide

/-- T79. -/
theorem test_shl : stepTo ((startAt 0x800E#16).setReg 0 0x81#8)
    (fun t => t.reg 0 == 2#8 && t.reg 15 == 1#8) = true := by decide

/-- T81. -/
theorem test_shl_vf : stepTo ((startAt 0x8F0E#16).setReg 15 0x80#8) (fun t => t.reg 15 == 2#8) = true := by decide

/-- T91. -/
theorem test_ldI : stepTo (startAt 0xAFFF#16) (fun t => t.ireg == 0x0FFF#16) = true := by decide

/-- T125, the column wraps. -/
theorem test_drw_wraps_column :
    stepTo (withBytes (((startAt 0xD011#16).setIndex 0x300#16).setReg 0 63#8) 0x300 [0xC0#8])
      (fun t => Framebuffer.get t.fb 63 0 && Framebuffer.get t.fb 0 0 && t.reg 15 == 0#8 && t.redraw) = true := by decide

/-- T130, the coordinate is VF before it is cleared. -/
theorem test_drw_vf_coordinate :
    stepTo (withBytes ((((startAt 0xDF01#16).setIndex 0x300#16).setReg 15 3#8).setReg 0 2#8) 0x300 [0x80#8])
      (fun t => Framebuffer.get t.fb 3 2 && t.reg 15 == 0#8) = true := by decide

/-- T140. -/
theorem test_ldVxDt : stepTo ((startAt 0xF307#16).setDelay 0x3C#8) (fun t => t.reg 3 == 0x3C#8) = true := by decide

/-- T141. -/
theorem test_ldDtVx : stepTo ((startAt 0xF015#16).setReg 0 0x3C#8) (fun t => t.dt == 0x3C#8) = true := by decide

/-- T142. -/
theorem test_ldStVx : stepTo ((startAt 0xF518#16).setReg 5 2#8) (fun t => t.st == 2#8) = true := by decide

/-- T93, the wrap is at 16 bits. -/
theorem test_addIVx_wraps : stepTo (((startAt 0xF01E#16).setIndex 0xFFFF#16).setReg 0 2#8)
    (fun t => t.ireg == 0x0001#16) = true := by decide

/-- T97, no nibble mask. -/
theorem test_ldFVx : stepTo ((startAt 0xF029#16).setReg 0 0xFF#8) (fun t => t.ireg == 0x04FB#16) = true := by decide

/-- T101. -/
theorem test_ldBVx_top : stepTo (withBytes (((startAt 0xF033#16).setIndex 0xFFD#16).setReg 0 7#8) 0xFFD [9#8, 9#8, 9#8])
    (fun t => Memory.read t.mem 0xFFD == 0#8 && Memory.read t.mem 0xFFE == 0#8 && Memory.read t.mem 0xFFF == 7#8) =
      true := by decide

/-- T102, nothing is written. -/
theorem test_ldBVx_out_of_range : stepTo (((startAt 0xF033#16).setIndex 0xFFE#16).setReg 0 7#8)
    (fun t => t.fault == some ⟨.addressOutOfRange, 0x200#16, some 0xF033#16⟩ && Memory.read t.mem 0xFFF == 0#8) =
      true := by decide

/-- T103. -/
theorem test_ldMemVx :
    stepTo ((((startAt 0xF155#16).setIndex 0x300#16).setReg 0 0x11#8).setReg 1 0x22#8 |>.setReg 2 0x33#8)
      (fun t => Memory.read t.mem 0x300 == 0x11#8 && Memory.read t.mem 0x301 == 0x22#8 &&
        Memory.read t.mem 0x302 == 0#8 && t.ireg == 0x300#16) = true := by decide

/-- T106. -/
theorem test_ldMemVx_out_of_range : stepTo ((startAt 0xFF55#16).setIndex 0xFF1#16)
    (fun t => t.fault == some ⟨.addressOutOfRange, 0x200#16, some 0xFF55#16⟩) = true := by decide

/-- T107. -/
theorem test_ldVxMem : stepTo (withBytes (((startAt 0xF265#16).setIndex 0x300#16).setReg 3 0x77#8) 0x300 [1#8, 2#8, 3#8, 4#8])
    (fun t => t.reg 0 == 1#8 && t.reg 2 == 3#8 && t.reg 3 == 0x77#8) = true := by decide

/-- T110. -/
theorem test_ldVxMem_out_of_range : stepTo ((startAt 0xF065#16).setIndex 0x1000#16)
    (fun t => t.fault == some ⟨.addressOutOfRange, 0x200#16, some 0xF065#16⟩) = true := by decide

/-! ## Host operations -/

/-- T157, TICK runs while halted. -/
theorem test_tick_while_halted :
    let s : State := { State.reset with dt := 5#8, st := 1#8, fault := some ⟨.stackUnderflow, 0x200#16, some 0x00EE#16⟩ }
    (tick s).dt = 4#8 ∧ (tick s).st = 0#8 ∧ soundOn (tick s) = false ∧ (tick s).fault = s.fault := by decide

/-- T155. -/
theorem test_tick_at_zero : tick State.reset = State.reset := by decide

/-- T153, in part. -/
theorem test_reset_op : (resetOp { State.reset with mem := [(0x50, 0xF0#8)], unkSeen := true }).unkSeen = false ∧
    Memory.read (resetOp { State.reset with mem := [(0x50, 0xF0#8)] }).mem 0x50 = 0#8 := by decide

/-- T151. -/
theorem test_load_too_long (rom : List Byte) (s : State) (h : rom.length = 3585) : load rom s = (s, .romTooLarge 3585) := by
  unfold load
  rw [if_pos (by rw [h]; decide), h]

/-- The image of P4, `22 00`. -/
theorem test_load_small : (load [0x22#8, 0x00#8] { State.reset with dt := 9#8 }).1.mem = [(0x200, 0x22#8)] ∧
    (load [0x22#8, 0x00#8] { State.reset with dt := 9#8 }).1.dt = 0#8 := by decide

/-- T158 and T159. -/
theorem test_lowmem_edge : (lowmemWrite 0x1FF [1#8] State.reset).2 = .ok ∧
    Memory.read (lowmemWrite 0x1FF [1#8] State.reset).1.mem 0x1FF = 1#8 ∧
    (lowmemWrite 0x1FF [1#8, 2#8] State.reset).2 = .refused := by decide

/-- T161. -/
theorem test_lowmem_empty_refused : (lowmemWrite 0x100 [] State.reset).2 = .refused := by decide

/-- T163. -/
theorem test_ackRedraw : (ackRedraw { State.reset with redraw := true }).redraw = false := by decide

/-- T162. -/
theorem test_setKeys : (setKeys ((Vector.replicate 16 false).set 10 true) State.reset).key[10] = true := by decide

/-- R700. -/
theorem test_codes : [ResultCode.ok, .unknownOpcode, .stackOverflow, .stackUnderflow, .addressOutOfRange, .halted,
    .romTooLarge].map ResultCode.number = [0, 1, 2, 3, 4, 5, 6] := by decide

/-- R804: the boot sequence leaves the font in low memory and the image at 0x200. -/
theorem test_boot : (match performAll (bootOps [0x12#8, 0x00#8] [0xF0#8] (Vector.replicate 16 false)) State.reset with
    | .next t => Memory.read t.mem 0 == 0xF0#8 && Memory.read t.mem 0x200 == 0x12#8
    | .fault _ => false
    | .refused _ => false) = true := by decide

/-! ## Witnesses: states and operands that meet the hypotheses of each obligation, at the ends of their ranges -/

/-- A state halted by RET with an empty stack. -/
def halted : State := State.reset.raiseFatal .stackUnderflow 0x200#16 (some 0x00EE#16)

/-- The state with I set. -/
def indexAt (w : Word) : State := State.reset.setIndex w

/-- DecodeOfEncodeIsIdentity, StepRunsDecodedInstruction: the last address a fetch can be made from. -/
theorem witness_step_runs :
    let s := (State.reset.setPc 0xFFE#16).withFetchWord 16 0xDFFF
    s.fault = none ∧ s.pc.toNat = 0xFFE ∧ (Instr.drw 15 15 15#4).wellFormed = true ∧
      decodeBytes [Memory.read s.mem s.pc.toNat, Memory.read s.mem (s.pc.toNat + 1)] =
        (.instr (.drw 15 15 15#4), []) := by decide

/-- EncodeOfDecodeIsWord: a word with a nonzero ignored field. -/
theorem witness_decode : decodeWord 0x8FF6#16 = .instr (.shr 15 15) := by decide

/-- NoWordMatchesTwoRows and every EncodedAs: each row is matched by a word with its free bits 0, and one with them 1. -/
theorem witness_rows_match :
    opcodeMap.all (fun r => r.matchesWord r.matchBits && r.matchesWord (r.matchBits ||| ~~~r.mask)) = true := by decide

/-- HaltedStepChangesNothing, and the halted case of PcAfterEveryStep and ErrorOfEveryStep. -/
theorem witness_halted : halted.fault = some ⟨.stackUnderflow, 0x200#16, some 0x00EE#16⟩ := by decide

/-- FetchOutOfRangeFaults, PcAfterEveryStep, ErrorOfEveryStep: both sides of the fetch range, and the largest PC. -/
theorem witness_fetch_range :
    (State.reset.setPc 0xFFE#16).pc.toNat ≤ 0xFFE ∧ (State.reset.setPc 0xFFF#16).pc.toNat ≥ 0xFFF ∧
    (State.reset.setPc 0xFFF#16).fetchWord = none ∧ (State.reset.setPc 0xFFFF#16).pc.toNat > 0xFFE ∧
    (State.reset.setPc 0xFFF#16).fault = none := by decide

/-- UnknownOpcodeAdvancesAndMarks, and the unknown and the known word of PcAfterEveryStep and ErrorOfEveryStep. -/
theorem witness_fetched_words :
    State.reset.fault = none ∧ State.reset.fetchWord = some 0x0000#16 ∧ decodeWord 0x0000#16 = .unknown .family0 ∧
    (startAt 0x00EE#16).fetchWord = some 0x00EE#16 ∧ decodeWord 0x00EE#16 = .instr .ret := by decide

/-- ErrorsArePrecise: each kind of result is returned somewhere, a failed fetch included. -/
theorem witness_result_kinds :
    stepTo (startAt 0x00EE#16) (fun t => (stepResult (startAt 0x00EE#16) t).code.fatal) = true ∧
    stepTo (State.reset.setPc 0xFFF#16) (fun t => (stepResult (State.reset.setPc 0xFFF#16) t).code.fatal &&
      (stepResult (State.reset.setPc 0xFFF#16) t).word.isNone) = true ∧
    stepTo State.reset (fun t => (stepResult State.reset t).code == .unknownOpcode) = true ∧
    stepTo (startAt 0x00E0#16) (fun t => (stepResult (startAt 0x00E0#16) t).code == .ok) = true := by decide

/-- HiddenStateDoesNotAct: two states that differ in every hidden item. -/
theorem witness_same_to_program :
    let s := withStack State.reset 1 0 0x202#16
    SameToProgram s { withStack s 1 1 0x400#16 with
      st := 9#8, redraw := true, unkSeen := true, key := Vector.replicate 16 true } :=
  ⟨rfl, rfl, rfl, rfl, rfl, by decide, rfl, rfl, rfl⟩

/-- EndOfRunStays: the self-loop, and the three ends of a run. -/
theorem witness_ends :
    (startAt 0x1200#16).fetchWord = some (encode (.jp ((startAt 0x1200#16).pc.setWidth 12))) ∧
    (startAt 0x1200#16).fault = none ∧ (startAt 0x1200#16).pc.toNat ≤ 0xFFE ∧ runEnd (startAt 0x1200#16) = .normal ∧
    runEnd { startAt 0x1200#16 with unkSeen := true } = .unknownOpcode ∧ runEnd halted = .faulted := by decide

/-- RetPopsOrUnderflows, CallPushesOrOverflows, RetResumesAfterCall: the stack empty, with one entry, with one free, full; and
the PC premise of TakesFatal, at 0x200 and where it wraps. -/
theorem witness_stack_depths :
    State.reset.sp.val = 0 ∧ (withStack State.reset 1 0 0x202#16).sp.val = (0 : Fin 16).val + 1 ∧
    (withStack State.reset 15 0 0x202#16).sp.val = (15 : Fin 16).val ∧
    (withStack State.reset 16 0 0x202#16).sp.val = (15 : Fin 16).val + 1 ∧
    (State.reset.setPc 0x202#16).pc = 0x200#16 + 2#16 ∧ (State.reset.setPc 0x0000#16).pc = 0xFFFE#16 + 2#16 ∧
    (0 : Fin 16) ≠ 15 := by decide

/-- RetResumesAfterCall and StoreThenLoadRestores: the later state may differ from the one left in all but what they name. -/
theorem witness_later_state :
    (exec (.call 0x300#12) State.reset = .next (((withStack State.reset 1 0 0x200#16)).setPc 0x300#16)) ∧
    (let t := (withStack State.reset 1 0 0x200#16).setPc 0x300#16
     ((t.setReg 3 9#8).setIndex 7#16).stack = t.stack ∧ ((t.setReg 3 9#8).setIndex 7#16).sp = t.sp) ∧
    (State.reset.setReg 3 9#8).mem = State.reset.mem ∧ (State.reset.setReg 3 9#8).ireg = State.reset.ireg :=
  ⟨rfl, ⟨rfl, rfl⟩, rfl, rfl⟩

/-- AddRegCarries, SubFlagsStrictly, SubnFlagsStrictly, ShrMovesBitZeroOut, ShlMovesBitSevenOut: the five register cases, and
`f` on a positive difference and on none. -/
theorem witness_register_cases :
    (0 : Reg) ≠ 15 ∧ (14 : Reg) ≠ 15 ∧ (15 : Reg) = 15 ∧
    (1 : Nat) = (if (5#8 : Byte).toNat > (4#8 : Byte).toNat then 1 else 0) ∧
    (0 : Nat) = (if (5#8 : Byte).toNat > (5#8 : Byte).toNat then 1 else 0) := by decide

/-- OnlySixWriteVfAside and OnlyNamedWritersWrite: an instruction that is on no list. -/
theorem witness_no_writer :
    (Instr.ldImm 14 0xFF#8).mnemonic ∉ ["ADD_REG", "SUB", "SHR", "SUBN", "SHL", "DRW"] ∧
    15 ∉ namedDestinations (.ldImm 14 0xFF#8) ∧ 15 ∉ namedDestinations (.ldVxMem 14) ∧
    (Instr.ldImm 14 0xFF#8).mnemonic ∉ ["LD_I", "ADD_I_VX", "LD_F_VX", "CALL", "RET", "LD_DT_VX", "LD_ST_VX", "CLS", "DRW",
      "LD_B_VX", "LD_MEM_VX"] ∧ (13 : Reg) ∉ namedDestinations (.drw 13 13 1#4) ∧
    (Instr.ldImm 14 0xFF#8).mnemonic ∉ ["RET", "JP", "CALL", "SE_IMM", "SNE_IMM", "SE_REG"] ∧ executionError (.ldImm 14 0xFF#8) = none := by decide

/-- LdBStoresDigits, LdMemStoresRegisters, LdVxMemLoadsRegisters, StoreThenLoadRestores: the last I in range and the first
beyond it. -/
theorem witness_index_range :
    (indexAt 0xFFD#16).ireg.toNat + 2 ≤ 0xFFF ∧ (indexAt 0xFFE#16).ireg.toNat + 2 > 0xFFF ∧
    (indexAt 0xFF0#16).ireg.toNat + (15 : Reg).val ≤ 0xFFF ∧ (indexAt 0xFF1#16).ireg.toNat + (15 : Reg).val > 0xFFF ∧
    (indexAt 0xFFF#16).ireg.toNat + (0 : Reg).val ≤ 0xFFF ∧ (indexAt 0x1000#16).ireg.toNat + (0 : Reg).val > 0xFFF ∧
    (15 : Reg) ≤ 15 ∧ (0 : Reg) ≤ 0 ∧ (14 : Reg) < 15 := by decide

/-- FetchSeesStores: a word both of whose bytes FX55 stored, at the end of memory; one with its second byte stored, and one
with its first, after FX55 of V0 alone; and both such words, and the tens and ones, after FX33. -/
theorem witness_fetch_stored :
    (indexAt 0xFF0#16).ireg.toNat + (15 : Reg).val ≤ 0xFFF ∧ (14 : Reg) ≤ 15 ∧ (0xFFE#16 : Word).toNat ≤ 0xFFE ∧
    (0xFFE#16 : Word).toNat = (indexAt 0xFF0#16).ireg.toNat + (14 : Reg).val ∧
    (indexAt 0x300#16).ireg.toNat + (0 : Reg).val ≤ 0xFFF ∧
    (0x2FF#16 : Word).toNat + 1 = (indexAt 0x300#16).ireg.toNat + (0 : Reg).val ∧
    (0x300#16 : Word).toNat = (indexAt 0x300#16).ireg.toNat + (0 : Reg).val ∧
    (indexAt 0x300#16).ireg.toNat + 2 ≤ 0xFFF ∧ (0x2FF#16 : Word).toNat + 1 = (indexAt 0x300#16).ireg.toNat ∧
    (0x301#16 : Word).toNat = (indexAt 0x300#16).ireg.toNat + 1 ∧
    (0x302#16 : Word).toNat = (indexAt 0x300#16).ireg.toNat + 2 := by decide

/-- FetchSeesStores: the addresses beside the stored range. -/
theorem witness_fetch_not_stored :
    ¬ bytesFrom (indexAt 0x300#16).ireg.toNat ((0 : Reg).val + 1) 0x2FF ∧
    ¬ bytesFrom (indexAt 0x300#16).ireg.toNat ((0 : Reg).val + 1) 0x301 ∧
    ¬ bytesFrom (indexAt 0x300#16).ireg.toNat 3 0x2FF ∧ ¬ bytesFrom (indexAt 0x300#16).ireg.toNat 3 0x303 := by
  simp [bytesFrom, indexAt, State.setIndex]

/-- DrwTogglesCoveredCells: no row, the last row in range, the first beyond it. -/
theorem witness_drw_range :
    (0#4 : BitVec 4).toNat = 0 ∧ (indexAt 0xFF1#16).ireg.toNat + (15#4 : BitVec 4).toNat - 1 ≤ 0xFFF ∧
    0 < (15#4 : BitVec 4).toNat ∧ (indexAt 0xFF2#16).ireg.toNat + (15#4 : BitVec 4).toNat - 1 > 0xFFF := by decide

/-- A state with one sprite row at I, and the cell it covers from (0, 0) lit or not. -/
def spriteAt (lit : Bool) : State :=
  { withBytes (indexAt 0x300#16) 0x300 [0x80#8] with fb := Framebuffer.set Framebuffer.clear 0 0 lit }

/-- DrwTogglesCoveredCells, DoubleDrawRestores: a set bit falls on a lit cell. -/
theorem witness_drw_hit :
    ∃ px py, SpriteCovers (spriteAt true).spriteRows ((spriteAt true).reg 0) ((spriteAt true).reg 1) 1 px py ∧
      Framebuffer.get (spriteAt true).fb px py = true :=
  ⟨0, 0, ⟨0, 0, by decide, by decide, by decide, by decide, by decide⟩, by decide⟩

/-- DrwTogglesCoveredCells: where every cell is off, no set bit falls on a lit one. -/
theorem witness_drw_miss :
    ¬ ∃ px py, SpriteCovers State.reset.spriteRows (State.reset.reg 0) (State.reset.reg 1) 1 px py ∧
      Framebuffer.get State.reset.fb px py = true := by
  rintro ⟨px, py, -, h⟩
  revert px py
  decide

/-- DoubleDrawRestores and SecondDrawCollidesIffSpriteHasSetBit: both draws complete. -/
theorem witness_double_draw :
    (0 : Reg) ≠ 15 ∧ (1 : Reg) ≠ 15 ∧ (spriteAt true).ireg.toNat + (1#4 : BitVec 4).toNat - 1 ≤ 0xFFF ∧
    ∃ t u, exec (.drw 0 1 1#4) (spriteAt true) = .next t ∧ exec (.drw 0 1 1#4) t = .next u :=
  ⟨by decide, by decide, by decide, _, _, rfl, rfl⟩

/-- TickCountsDownToZero: a timer at its largest, at 1 and at 0. -/
theorem witness_timers :
    0 < ({ State.reset with dt := 0xFF#8, st := 1#8 } : State).dt.toNat ∧
    0 < ({ State.reset with dt := 0xFF#8, st := 1#8 } : State).st.toNat ∧
    State.reset.dt.toNat = 0 ∧ State.reset.st.toNat = 0 := by decide

/-- LoadResetsAndCopies and HostCannotWriteDirectly: the longest image LOAD takes, one byte more, and none. -/
theorem witness_image_lengths :
    (List.replicate 3584 1#8).length ≤ 3584 ∧ (List.replicate 3585 1#8).length > 3584 ∧
    3583 < (List.replicate 3584 1#8).length ∧ ([] : List Byte).length ≤ 3584 ∧ 0xFFF < 0x200 + 3584 := by
  simp only [List.length_replicate]
  decide

/-- LowmemWriteStaysLow: the last address allowed, the first run refused, and no bytes. -/
theorem witness_lowmem :
    1 ≤ [7#8].length ∧ 0x1FF + [7#8].length - 1 ≤ 0x1FF ∧ 0x1FF + [7#8, 8#8].length - 1 > 0x1FF ∧
    ([] : List Byte).length = 0 ∧ 0 < [7#8].length := by decide

/-- HostCannotWriteDirectly and LatchOutlivesAllButReset: the operations they are about. -/
theorem witness_operations :
    Operation.tick ≠ .step ∧ Operation.tick ≠ .reset ∧ (∀ rom, Operation.tick ≠ .load rom) ∧
    (∀ rom, Operation.load (List.replicate 3585 1#8) = .load rom → rom.length > 3584) ∧
    Operation.lowmemWrite 0 [1#8] ≠ .reset ∧ OperationResult.none ≠ .load .ok ∧ halted.fault.isSome = true := by
  refine ⟨by decide, by decide, fun _ h => (nomatch h), ?_, by decide, by decide, by decide⟩
  rintro rom h
  injection h with h
  rw [← h, List.length_replicate]
  decide

/-- StepKeepsInvariant and OperationsKeepInvariant: the reset state meets the invariant and a STEP from it answers. -/
theorem witness_invariant : Inv State.reset ∧ ∃ t, step State.reset = .next t :=
  ⟨⟨Memory.wf_nil, by decide, by decide, fun _ hf => (nomatch hf)⟩, _, rfl⟩

/-- CanonicalMemoriesAreEqual: a canonical memory with the first and the last address. -/
theorem witness_canonical : Memory.wf [(0, 1#8), (0xFFF, 2#8)] := by decide

/-- PlacedWordIsRun: the last PC that can be fetched from, and the first and the last that cannot, halted. -/
theorem witness_placed :
    (State.reset.setPc 0xFFE#16).pc.toNat ≤ 0xFFE ∧ (halted.setPc 0xFFF#16).pc.toNat > 0xFFE ∧
    (halted.setPc 0xFFFF#16).pc.toNat > 0xFFE ∧ (halted.setPc 0xFFF#16).fault.isSome = true := by decide

end Sys2Proof.Tests
end

section
/-! Proofs for the family 10_state, the layer of facts: what the branching instructions can do, what each update of the
state leaves alone, and that decoding undoes encoding. -/

namespace Sys2Proof.Machine

/-! ## Decoding undoes encoding (R305, R307) -/

/-- Every instruction is the one its word decodes to. -/
@[simp] theorem decodeWord_encode (i : Instr) : decodeWord (encode i) = .instr i := by
  cases i with
  | cls | ret => rfl
  | jp | call | ldI => simp [encode, decodeWord]
  | seImm | sneImm | ldImm | addImm | drw => simp [encode, decodeWord]
  | seReg => simp [encode, decodeWord, decodeFamily5]
  | ldReg | or | and | xor | addReg | sub | shr | subn | shl => simp [encode, decodeWord, decodeFamily8]
  | ldVxDt | ldDtVx | ldStVx | addIVx | ldFVx | ldBVx | ldMemVx | ldVxMem =>
    simp [encode, decodeWord, decodeFamilyF]

/-! ## What a branching instruction can do -/

/-- A guarded outcome is one of its two branches, each under its condition. -/
theorem guarded_cases {p : Prop} [Decidable p] {t u v : State}
    (h : (if p then .next u else .next v : StepOutcome) = .next t) : (p ∧ t = u) ∨ (¬ p ∧ t = v) := by
  by_cases hp : p
  · rw [if_pos hp] at h; cases h; exact .inl ⟨hp, rfl⟩
  · rw [if_neg hp] at h; cases h; exact .inr ⟨hp, rfl⟩

variable {s t : State}

/-- RET underflows or pops (R450). -/
theorem exec_ret_cases (h : exec .ret s = .next t) :
    (s.sp.val = 0 ∧ t = s.raiseIn .ret .stackUnderflow) ∨
    ∃ (k : Nat) (hk : k < 16), s.sp.val = k + 1 ∧ t = { s with sp := ⟨k, by omega⟩, pc := s.stack[k] } := by
  rcases pop_cases s with ⟨hsp, -⟩ | ⟨k, hk, hsp, -⟩
  · rw [exec_ret_of_empty hsp] at h; cases h; exact .inl ⟨hsp, rfl⟩
  · rw [exec_ret_of_succ hk hsp] at h; cases h; exact .inr ⟨k, hk, hsp, rfl⟩

/-- CALL overflows or pushes (R452). -/
theorem exec_call_cases {nnn : BitVec 12} (h : exec (.call nnn) s = .next t) :
    (s.sp.val = 16 ∧ t = s.raiseIn (.call nnn) .stackOverflow) ∨
    ∃ hsp : s.sp.val < 16,
      t = { s with stack := s.stack.set s.sp.val s.pc, sp := ⟨s.sp.val + 1, by omega⟩, pc := absolute nnn } := by
  rcases push_cases s s.pc with ⟨hsp, -⟩ | ⟨hsp, -⟩
  · rw [exec_call_of_full nnn hsp] at h; cases h; exact .inl ⟨hsp, rfl⟩
  · rw [exec_call_of_lt nnn hsp] at h; cases h; exact .inr ⟨hsp, rfl⟩

/-- DRW draws or takes AddressOutOfRange (R601). -/
theorem exec_drw_cases {x y : Reg} {n : BitVec 4} (h : exec (.drw x y n) s = .next t) :
    (s.indexRangeOk n.toNat ∧ ∃ c, c = Canvas.drawSprite s.spriteRows (s.reg x) (s.reg y) n.toNat ⟨s.fb, false⟩ ∧
      t = (s.setFlag c.hit).showFrame c.fb) ∨
    (¬ s.indexRangeOk n.toNat ∧ t = s.raiseIn (.drw x y n) .addressOutOfRange) :=
  (guarded_cases h).imp_left fun ⟨hr, ht⟩ => ⟨hr, _, rfl, ht⟩

/-- FX33 stores the digits or takes AddressOutOfRange (R553). -/
theorem exec_ldBVx_cases {x : Reg} (h : exec (.ldBVx x) s = .next t) :
    (s.indexRangeOk 3 ∧ t = s.setMem (Memory.writeBytes s.mem (s.indexAddr 0) (bcdDigits (s.reg x)))) ∨
    (¬ s.indexRangeOk 3 ∧ t = s.raiseIn (.ldBVx x) .addressOutOfRange) :=
  guarded_cases h

/-- FX55 stores the registers or takes AddressOutOfRange (R554). -/
theorem exec_ldMemVx_cases {x : Reg} (h : exec (.ldMemVx x) s = .next t) :
    (s.indexRangeOk (blockCount x) ∧
      t = s.setMem (Memory.writeBytes s.mem (s.indexAddr 0) (s.v.toList.take (blockCount x)))) ∨
    (¬ s.indexRangeOk (blockCount x) ∧ t = s.raiseIn (.ldMemVx x) .addressOutOfRange) :=
  guarded_cases h

/-- FX65 loads the registers or takes AddressOutOfRange (R555). -/
theorem exec_ldVxMem_cases {x : Reg} (h : exec (.ldVxMem x) s = .next t) :
    (s.indexRangeOk (blockCount x) ∧ t = loadRegs (blockCount x) s) ∨
    (¬ s.indexRangeOk (blockCount x) ∧ t = s.raiseIn (.ldVxMem x) .addressOutOfRange) :=
  guarded_cases h

/-! ## The named writers of each item -/

/-- The mnemonics of the six instructions that write VF as a side effect (R103). -/
abbrev flagWriters : List String := ["ADD_REG", "SUB", "SHR", "SUBN", "SHL", "DRW"]

/-- The mnemonics of the instructions that write PC after the advance of the fetch (R410). -/
abbrev pcWriters : List String := ["RET", "JP", "CALL", "SE_IMM", "SNE_IMM", "SE_REG"]

/-- From `s` to `t` only those items have changed that the spec names `i` as a writer of, PC after the advance of the
fetch and VF by the six instructions of R103 included. -/
structure WritesOnlyNamed (i : Instr) (s t : State) : Prop where
  reg : ∀ r, r ∉ namedDestinations i → (r = 15 → i.mnemonic ∉ flagWriters) → t.reg r = s.reg r
  pc : i.mnemonic ∉ pcWriters → t.pc = s.pc
  ireg : i.mnemonic ∉ ["LD_I", "ADD_I_VX", "LD_F_VX"] → t.ireg = s.ireg
  stack : i.mnemonic ≠ "CALL" → t.stack = s.stack
  sp : i.mnemonic ∉ ["CALL", "RET"] → t.sp = s.sp
  dt : i.mnemonic ≠ "LD_DT_VX" → t.dt = s.dt
  st : i.mnemonic ≠ "LD_ST_VX" → t.st = s.st
  frame : i.mnemonic ∉ ["CLS", "DRW"] → t.fb = s.fb ∧ t.redraw = s.redraw
  mem : i.mnemonic ∉ ["LD_B_VX", "LD_MEM_VX"] → t.mem = s.mem
  fault : executionError i = none → t.fault = s.fault
  key : t.key = s.key
  unkSeen : t.unkSeen = s.unkSeen

namespace WritesOnlyNamed

variable {i : Instr}

theorem refl (i : Instr) (s : State) : WritesOnlyNamed i s s where
  reg _ _ _ := rfl
  pc _ := rfl
  ireg _ := rfl
  stack _ := rfl
  sp _ := rfl
  dt _ := rfl
  st _ := rfl
  frame _ := ⟨rfl, rfl⟩
  mem _ := rfl
  fault _ := rfl
  key := rfl
  unkSeen := rfl

theorem setReg (h : WritesOnlyNamed i s t) {r : Reg} (b : Byte)
    (hr : r ∈ namedDestinations i ∨ r = 15 ∧ i.mnemonic ∈ flagWriters) : WritesOnlyNamed i s (t.setReg r b) :=
  { h with
    reg := fun q hq hf => by
      have hqr : q ≠ r := by
        rintro rfl
        rcases hr with hr | ⟨rfl, hr⟩
        · exact hq hr
        · exact hf rfl hr
      rw [reg_setReg, if_neg hqr, h.reg q hq hf] }

theorem setFlag (h : WritesOnlyNamed i s t) (b : Bool) (hi : i.mnemonic ∈ flagWriters) :
    WritesOnlyNamed i s (t.setFlag b) :=
  h.setReg _ (.inr ⟨rfl, hi⟩)

theorem loadRegs (h : WritesOnlyNamed i s t) (n : Nat) (hn : ∀ k < n, Fin.ofNat 16 k ∈ namedDestinations i) :
    WritesOnlyNamed i s (loadRegs n t) := by
  induction n with
  | zero => exact h
  | succ n ih => exact (ih fun k hk => hn k (by omega)).setReg _ (.inl (hn n (by omega)))

theorem setPc (h : WritesOnlyNamed i s t) (w : Word) (hi : i.mnemonic ∈ pcWriters) :
    WritesOnlyNamed i s (t.setPc w) :=
  { h with pc := fun hn => absurd hi hn }

theorem skipIf (h : WritesOnlyNamed i s t) (c : Bool) (hi : i.mnemonic ∈ pcWriters) :
    WritesOnlyNamed i s (t.skipIf c) := by
  cases c with
  | false => exact h
  | true => exact h.setPc _ hi

theorem setIndex (h : WritesOnlyNamed i s t) (w : Word) (hi : i.mnemonic ∈ ["LD_I", "ADD_I_VX", "LD_F_VX"]) :
    WritesOnlyNamed i s (t.setIndex w) :=
  { h with ireg := fun hn => absurd hi hn }

theorem setMem (h : WritesOnlyNamed i s t) (m : Memory) (hi : i.mnemonic ∈ ["LD_B_VX", "LD_MEM_VX"]) :
    WritesOnlyNamed i s (t.setMem m) :=
  { h with mem := fun hn => absurd hi hn }

theorem showFrame (h : WritesOnlyNamed i s t) (f : Framebuffer) (hi : i.mnemonic ∈ ["CLS", "DRW"]) :
    WritesOnlyNamed i s (t.showFrame f) :=
  { h with frame := fun hn => absurd hi hn }

theorem raiseIn (h : WritesOnlyNamed i s t) (j : Instr) (c : FaultCode) (hi : executionError i ≠ none) :
    WritesOnlyNamed i s (t.raiseIn j c) :=
  { h with fault := fun hn => absurd hn hi }

end WritesOnlyNamed

theorem ofNat_mem_regsUpTo {x : Reg} {k : Nat} (hk : k < blockCount x) : Fin.ofNat 16 k ∈ regsUpTo x := by
  have hle : k % 16 ≤ x.val := (Nat.mod_le k 16).trans (Nat.lt_succ_iff.mp hk)
  exact List.mem_filter.mpr ⟨List.mem_finRange _, decide_eq_true hle⟩

open WritesOnlyNamed in
/-- Every instruction writes only the items that the spec names it as a writer of. -/
theorem exec_writesOnlyNamed {i : Instr} (h : exec i s = .next t) : WritesOnlyNamed i s t := by
  cases i with
  | cls => cases h; exact (refl _ s).showFrame _ (by simp [Instr.mnemonic])
  | ret =>
    obtain ⟨-, rfl⟩ | ⟨k, hk, -, rfl⟩ := exec_ret_cases h
    · exact (refl _ s).raiseIn _ _ (by simp [executionError])
    · exact { refl .ret s with
        pc := fun hn => absurd (by simp [Instr.mnemonic]) hn
        sp := fun hn => absurd (by simp [Instr.mnemonic]) hn }
  | jp nnn => cases h; exact (refl _ s).setPc _ (by simp [Instr.mnemonic])
  | call nnn =>
    obtain ⟨-, rfl⟩ | ⟨hsp, rfl⟩ := exec_call_cases h
    · exact (refl _ s).raiseIn _ _ (by simp [executionError])
    · exact { refl (.call nnn) s with
        pc := fun hn => absurd (by simp [Instr.mnemonic]) hn
        stack := fun hn => absurd rfl hn
        sp := fun hn => absurd (by simp [Instr.mnemonic]) hn }
  | seImm | sneImm | seReg => cases h; exact (refl _ s).skipIf _ (by simp [Instr.mnemonic])
  | ldImm | addImm | ldReg | or | and | xor | ldVxDt =>
    cases h; exact (refl _ s).setReg _ (.inl (by simp [namedDestinations]))
  | addReg | sub | shr | subn | shl =>
    cases h
    exact ((refl _ s).setFlag _ (by simp [Instr.mnemonic])).setReg _ (.inl (by simp [namedDestinations]))
  | ldI | addIVx | ldFVx => cases h; exact (refl _ s).setIndex _ (by simp [Instr.mnemonic])
  | drw x y n =>
    obtain ⟨-, c, -, rfl⟩ | ⟨-, rfl⟩ := exec_drw_cases h
    · exact ((refl _ s).setFlag _ (by simp [Instr.mnemonic])).showFrame _ (by simp [Instr.mnemonic])
    · exact (refl _ s).raiseIn _ _ (by simp [executionError])
  | ldDtVx x => cases h; exact { refl (.ldDtVx x) s with dt := fun hn => absurd rfl hn }
  | ldStVx x => cases h; exact { refl (.ldStVx x) s with st := fun hn => absurd rfl hn }
  | ldBVx x =>
    obtain ⟨-, rfl⟩ | ⟨-, rfl⟩ := exec_ldBVx_cases h
    · exact (refl _ s).setMem _ (by simp [Instr.mnemonic])
    · exact (refl _ s).raiseIn _ _ (by simp [executionError])
  | ldMemVx x =>
    obtain ⟨-, rfl⟩ | ⟨-, rfl⟩ := exec_ldMemVx_cases h
    · exact (refl _ s).setMem _ (by simp [Instr.mnemonic])
    · exact (refl _ s).raiseIn _ _ (by simp [executionError])
  | ldVxMem x =>
    obtain ⟨-, rfl⟩ | ⟨-, rfl⟩ := exec_ldVxMem_cases h
    · exact (refl _ s).loadRegs _ fun k hk => ofNat_mem_regsUpTo hk
    · exact (refl _ s).raiseIn _ _ (by simp [executionError])

end Sys2Proof.Machine
end

section
/-! Proofs for the family 10_state: noninterference. Each update, each instruction and each STEP takes two states that
agree on what a program can see to two states that do (R116). -/

namespace Sys2Proof.Machine

variable {s s' t t' : State}

namespace SameToProgram

theorem reg (h : SameToProgram s s') (r : Reg) : s'.reg r = s.reg r := reg_congr h.v r

theorem indexAddr (h : SameToProgram s s') (k : Nat) : s'.indexAddr k = s.indexAddr k := by
  rw [State.indexAddr, h.ireg, State.indexAddr]

theorem indexRangeOk (h : SameToProgram s s') (n : Nat) : s'.indexRangeOk n ↔ s.indexRangeOk n := by
  rw [State.indexRangeOk, h.ireg]

theorem insnAddr (h : SameToProgram s s') : s'.insnAddr = s.insnAddr := by
  rw [State.insnAddr, h.pc, State.insnAddr]

theorem fetchWord (h : SameToProgram s s') : s'.fetchWord = s.fetchWord := by
  rw [State.fetchWord, h.pc, h.mem, State.fetchWord]

theorem setReg (h : SameToProgram s s') (r : Reg) {b b' : Byte} (hb : b' = b) :
    SameToProgram (s.setReg r b) (s'.setReg r b') :=
  { h with v := by rw [setReg_v, setReg_v, h.v, hb] }

theorem setFlag (h : SameToProgram s s') {b b' : Bool} (hb : b' = b) :
    SameToProgram (s.setFlag b) (s'.setFlag b') :=
  h.setReg vf (congrArg flagByte hb)

theorem setIndex (h : SameToProgram s s') {w w' : Word} (hw : w' = w) :
    SameToProgram (s.setIndex w) (s'.setIndex w') :=
  { h with ireg := hw }

theorem setDelay (h : SameToProgram s s') {b b' : Byte} (hb : b' = b) :
    SameToProgram (s.setDelay b) (s'.setDelay b') :=
  { h with dt := hb }

/-- ST is hidden, so what is written to it does not matter. -/
theorem setSound (h : SameToProgram s s') (b b' : Byte) : SameToProgram (s.setSound b) (s'.setSound b') :=
  { h with }

theorem setMem (h : SameToProgram s s') {m m' : Memory} (hm : m' = m) :
    SameToProgram (s.setMem m) (s'.setMem m') :=
  { h with mem := hm }

theorem setPc (h : SameToProgram s s') {w w' : Word} (hw : w' = w) : SameToProgram (s.setPc w) (s'.setPc w') :=
  { h with pc := hw }

theorem advance (h : SameToProgram s s') : SameToProgram s.advance s'.advance :=
  h.setPc (by rw [h.pc])

theorem skipIf (h : SameToProgram s s') {c c' : Bool} (hc : c' = c) : SameToProgram (s.skipIf c) (s'.skipIf c') := by
  subst hc
  cases c' with
  | false => exact h
  | true => exact h.advance

theorem showFrame (h : SameToProgram s s') {f f' : Framebuffer} (hf : f' = f) :
    SameToProgram (s.showFrame f) (s'.showFrame f') :=
  { h with fb := hf }

theorem raiseUnknown (h : SameToProgram s s') : SameToProgram s.raiseUnknown s'.raiseUnknown :=
  { h with }

theorem fetchFailure (h : SameToProgram s s') : SameToProgram s.fetchFailure s'.fetchFailure :=
  { h with fault := by rw [fetchFailure_fault, fetchFailure_fault, h.pc] }

theorem raiseIn (h : SameToProgram s s') (i : Instr) (c : FaultCode) :
    SameToProgram (s.raiseIn i c) (s'.raiseIn i c) :=
  { h with fault := by rw [raiseIn_fault, raiseIn_fault, h.insnAddr] }

theorem loadRegs (h : SameToProgram s s') (n : Nat) : SameToProgram (loadRegs n s) (loadRegs n s') := by
  induction n with
  | zero => exact h
  | succ n ih => exact ih.setReg _ (by rw [h.mem, h.indexAddr])

/-- Two guarded outcomes with the same guard, from related states, are related. -/
theorem guarded (h : SameToProgram s s') (n : Nat) (i : Instr) {u u' : State} (hu : SameToProgram u u') :
    ∃ t t', (if s.indexRangeOk n then .next u else .next (s.raiseIn i .addressOutOfRange) : StepOutcome) = .next t ∧
      (if s'.indexRangeOk n then .next u' else .next (s'.raiseIn i .addressOutOfRange) : StepOutcome) = .next t' ∧
      SameToProgram t t' := by
  by_cases hr : s.indexRangeOk n
  · exact ⟨u, u', if_pos hr, if_pos ((h.indexRangeOk n).mpr hr), hu⟩
  · exact ⟨_, _, if_neg hr, if_neg (mt (h.indexRangeOk n).mp hr), h.raiseIn i _⟩

/-- RET reads only the entry below SP, which the states share (R450). -/
theorem exec_ret_related (h : SameToProgram s s') :
    ∃ t t', exec .ret s = .next t ∧ exec .ret s' = .next t' ∧ SameToProgram t t' := by
  rcases pop_cases s with ⟨hsp, -⟩ | ⟨k, hk, hsp, -⟩
  · exact ⟨_, _, exec_ret_of_empty hsp, exec_ret_of_empty (h.sp ▸ hsp), h.raiseIn _ _⟩
  · refine ⟨_, _, exec_ret_of_succ hk hsp, exec_ret_of_succ hk (h.sp ▸ hsp), ?_⟩
    exact { h with
      sp := rfl
      pc := h.stack ⟨k, hk⟩ (by show k < _; omega)
      stack := fun j hj => h.stack j (by have : j.val < k := hj; omega) }

/-- CALL writes the entry at SP before it becomes visible (R452, R107). -/
theorem exec_call_related (h : SameToProgram s s') (nnn : BitVec 12) :
    ∃ t t', exec (.call nnn) s = .next t ∧ exec (.call nnn) s' = .next t' ∧ SameToProgram t t' := by
  rcases push_cases s s.pc with ⟨hsp, -⟩ | ⟨hsp, -⟩
  · exact ⟨_, _, exec_call_of_full nnn hsp, exec_call_of_full nnn (h.sp ▸ hsp), h.raiseIn _ _⟩
  · refine ⟨_, _, exec_call_of_lt nnn hsp, exec_call_of_lt nnn (h.sp ▸ hsp), ?_⟩
    refine { h with sp := by simp [h.sp], pc := rfl, stack := fun j hj => ?_ }
    have hj' : j.val < s.sp.val + 1 := hj
    by_cases hjk : s.sp.val = j.val
    · simp [h.sp, h.pc, hjk]
    · simpa [h.sp, hjk] using h.stack j (by omega)

/-- An instruction takes states a program cannot tell apart to states it cannot tell apart. -/
theorem exec_related (h : SameToProgram s s') (i : Instr) :
    ∃ t t', exec i s = .next t ∧ exec i s' = .next t' ∧ SameToProgram t t' := by
  cases i with
  | cls => exact ⟨_, _, rfl, rfl, h.showFrame rfl⟩
  | ret => exact h.exec_ret_related
  | jp nnn => exact ⟨_, _, rfl, rfl, h.setPc rfl⟩
  | call nnn => exact h.exec_call_related nnn
  | seImm | sneImm | seReg => exact ⟨_, _, rfl, rfl, h.skipIf (by simp only [h.reg])⟩
  | ldImm | addImm | ldReg | or | and | xor => exact ⟨_, _, rfl, rfl, h.setReg _ (by simp only [h.reg])⟩
  | addReg | sub | shr | subn | shl =>
    exact ⟨_, _, rfl, rfl, (h.setFlag (by simp only [h.reg])).setReg _ (by simp only [reg_setFlag, h.reg])⟩
  | ldI | addIVx | ldFVx => exact ⟨_, _, rfl, rfl, h.setIndex (by simp only [h.reg, h.ireg])⟩
  | drw x y n =>
    refine h.guarded _ _ ((h.setFlag ?_).showFrame ?_)
    all_goals simp only [h.mem, h.indexAddr, h.reg, h.fb]
  | ldVxDt => exact ⟨_, _, rfl, rfl, h.setReg _ h.dt⟩
  | ldDtVx => exact ⟨_, _, rfl, rfl, h.setDelay (h.reg _)⟩
  | ldStVx => exact ⟨_, _, rfl, rfl, h.setSound _ _⟩
  | ldBVx => exact h.guarded _ _ (h.setMem (by simp only [h.mem, h.indexAddr, h.reg]))
  | ldMemVx => exact h.guarded _ _ (h.setMem (by simp only [h.mem, h.indexAddr, h.v]))
  | ldVxMem => exact h.guarded _ _ (h.loadRegs _)

/-- A STEP takes states a program cannot tell apart to states it cannot tell apart. -/
theorem step_related (h : SameToProgram s s') :
    ∃ t t', step s = .next t ∧ step s' = .next t' ∧ SameToProgram t t' := by
  rcases step_cases s with ⟨f, hf⟩ | ⟨hf, hw⟩ | ⟨w, why, hf, hw, hd⟩ | ⟨w, i, hf, hw, hd⟩
  · exact ⟨_, _, step_of_halted hf, step_of_halted (h.fault.trans hf), h⟩
  · exact ⟨_, _, step_of_fetchFailure hf hw, step_of_fetchFailure (h.fault.trans hf) (h.fetchWord.trans hw),
      h.fetchFailure⟩
  · exact ⟨_, _, step_of_unknown hf hw hd, step_of_unknown (h.fault.trans hf) (h.fetchWord.trans hw) hd,
      h.advance.raiseUnknown⟩
  · rw [step_of_instr hf hw hd, step_of_instr (h.fault.trans hf) (h.fetchWord.trans hw) hd]
    exact h.advance.exec_related i

/-- The result record of a STEP is made of what a program can see. -/
theorem stepResult_eq (h : SameToProgram s s') (ht : SameToProgram t t') : stepResult s t = stepResult s' t' := by
  simp only [stepResult, h.fault, h.fetchWord, h.pc, ht.fault]

end SameToProgram

end Sys2Proof.Machine
end

section
/-! Proofs for the family 10_state: the invariant of R118, and the latch and UNK_SEEN (R113, R114). -/

namespace Sys2Proof.Machine

variable {s t : State}

/-! ## What an instruction can do to the items the invariant is about -/

@[simp] theorem loadRegs_fault (n : Nat) (s : State) : (loadRegs n s).fault = s.fault := by rw [loadRegs_eq]

/-- An instruction leaves the latch, or takes the one fatal error it can raise, a stack error only on a full or an empty
stack (R711, R714). -/
theorem exec_fault_cases {i : Instr} (h : exec i s = .next t) :
    t.fault = s.fault ∨ ∃ c, executionError i = some c ∧ t = s.raiseIn i c ∧
      (c = .stackOverflow → s.sp.val = 16) ∧ (c = .stackUnderflow → s.sp.val = 0) := by
  have hn := exec_writesOnlyNamed h
  cases i with
  | ret =>
    obtain ⟨hsp, rfl⟩ | ⟨k, hk, -, rfl⟩ := exec_ret_cases h
    · exact .inr ⟨_, rfl, rfl, nofun, fun _ => hsp⟩
    · exact .inl rfl
  | call =>
    obtain ⟨hsp, rfl⟩ | ⟨-, rfl⟩ := exec_call_cases h
    · exact .inr ⟨_, rfl, rfl, fun _ => hsp, nofun⟩
    · exact .inl rfl
  | drw =>
    obtain ⟨-, c, -, rfl⟩ | ⟨-, rfl⟩ := exec_drw_cases h
    · exact .inl rfl
    · exact .inr ⟨_, rfl, rfl, nofun, nofun⟩
  | ldBVx =>
    obtain ⟨-, rfl⟩ | ⟨-, rfl⟩ := exec_ldBVx_cases h
    · exact .inl rfl
    · exact .inr ⟨_, rfl, rfl, nofun, nofun⟩
  | ldMemVx =>
    obtain ⟨-, rfl⟩ | ⟨-, rfl⟩ := exec_ldMemVx_cases h
    · exact .inl rfl
    · exact .inr ⟨_, rfl, rfl, nofun, nofun⟩
  | ldVxMem =>
    obtain ⟨-, rfl⟩ | ⟨-, rfl⟩ := exec_ldVxMem_cases h
    · exact .inl (loadRegs_fault _ s)
    · exact .inr ⟨_, rfl, rfl, nofun, nofun⟩
  | _ => exact .inl (hn.fault rfl)

/-- PC after an instruction: the advanced PC, one more advance, an absolute address, or a stack entry (R410). -/
theorem exec_pc_cases {i : Instr} (h : exec i s = .next t) :
    t.pc = s.pc ∨ t.pc = s.pc + 2#16 ∨ (∃ nnn, t.pc = absolute nnn) ∨ ∃ k : Fin 16, t.pc = s.stack[k] := by
  have hn := exec_writesOnlyNamed h
  cases i with
  | ret =>
    obtain ⟨-, rfl⟩ | ⟨k, hk, -, rfl⟩ := exec_ret_cases h
    · exact .inl rfl
    · exact .inr (.inr (.inr ⟨⟨k, hk⟩, rfl⟩))
  | jp nnn => cases h; exact .inr (.inr (.inl ⟨nnn, rfl⟩))
  | call nnn =>
    obtain ⟨-, rfl⟩ | ⟨-, rfl⟩ := exec_call_cases h
    · exact .inl rfl
    · exact .inr (.inr (.inl ⟨nnn, rfl⟩))
  | seImm | sneImm | seReg => cases h; rw [skipIf_pc]; split <;> simp
  | _ => exact .inl (hn.pc (by simp [Instr.mnemonic]))

/-- A stack entry after an instruction is the entry before it, or the PC a CALL has pushed (R107, R452). -/
theorem exec_stack_cases {i : Instr} (h : exec i s = .next t) (k : Fin 16) :
    t.stack[k] = s.stack[k] ∨ t.stack[k] = s.pc := by
  have hn := exec_writesOnlyNamed h
  cases i with
  | call nnn =>
    obtain ⟨-, rfl⟩ | ⟨hsp, rfl⟩ := exec_call_cases h
    · exact .inl rfl
    · by_cases hk : s.sp.val = k.val
      · exact .inr (by simp [hk])
      · exact .inl (by simp [hk])
  | _ => exact .inl (by rw [hn.stack (by simp [Instr.mnemonic])])

/-- A checked store from I stays within the address space (R211), so it keeps the canonical form. -/
theorem wf_writeBytes_of_indexRangeOk {bytes : List Byte} {count : Nat} (hm : Memory.wf s.mem)
    (hr : s.indexRangeOk count) (hpos : count ≠ 0) (hlen : bytes.length ≤ count) :
    Memory.wf (Memory.writeBytes s.mem (s.indexAddr 0) bytes) := by
  have := ((indexRangeOk_iff s count).mp hr).resolve_left hpos
  exact Memory.wf_writeBytes bytes hm (by rw [State.indexAddr]; omega)

/-- An instruction keeps memory in canonical form. -/
theorem exec_keeps_wf {i : Instr} (h : exec i s = .next t) (hm : Memory.wf s.mem) : Memory.wf t.mem := by
  have hn := exec_writesOnlyNamed h
  cases i with
  | ldBVx x =>
    obtain ⟨hr, rfl⟩ | ⟨-, rfl⟩ := exec_ldBVx_cases h
    · exact wf_writeBytes_of_indexRangeOk hm hr (by decide) (by simp [bcdDigits])
    · exact hm
  | ldMemVx x =>
    obtain ⟨hr, rfl⟩ | ⟨-, rfl⟩ := exec_ldMemVx_cases h
    · exact wf_writeBytes_of_indexRangeOk hm hr (by simp [blockCount]) (by simp)
    · exact hm
  | _ => exact hn.mem (by simp [Instr.mnemonic]) ▸ hm

/-! ## The invariant (R118) -/

theorem faultConsistent_of_none (h : s.fault = none) : FaultConsistent s := fun f hf => by simp [h] at hf

theorem faultConsistent_fetchFailure (hw : s.fetchWord = none) : FaultConsistent s.fetchFailure := by
  rintro _ ⟨⟩
  have := fetchWord_eq_none_iff.mp hw
  have hout : ¬ inRange (s.fetchFailure.pc.toNat + 1) := by
    simp only [fetchFailure_pc, inRange, Config.lastAddress]; omega
  exact ⟨fun _ => ⟨rfl, rfl, hout⟩, nofun, nofun, nofun⟩

/-- The record of an error raised in execution names the instruction, fetched from addresses in range (R711). -/
theorem faultConsistent_raiseIn {i : Instr} {c : FaultCode} (hpc : s.pc.toNat ≤ 0xFFE) (hc : executionError i = some c)
    (hover : c = .stackOverflow → s.sp.val = 16) (hunder : c = .stackUnderflow → s.sp.val = 0) :
    FaultConsistent (s.advance.raiseIn i c) := by
  rintro _ ⟨⟩
  refine ⟨nofun, ?_, hover, hunder⟩
  rintro _ ⟨⟩
  rw [insnAddr_advance]
  exact ⟨rfl, by simp only [inRange, Config.lastAddress]; omega, i, decodeWord_encode i, hc⟩

/-- The advance of the fetch adds 2 to a PC that can be fetched from, without wrapping (R404). -/
theorem advance_pc_toNat (h : s.pc.toNat ≤ 0xFFE) : s.advance.pc.toNat = s.pc.toNat + 2 := by
  rw [advance_pc, BitVec.toNat_add]; simp; omega

theorem absolute_toNat_lt (nnn : BitVec 12) : (absolute nnn).toNat < 0x1000 := by
  have := nnn.isLt
  rw [absolute, BitVec.toNat_setWidth]; omega

theorem exec_keeps_inv (hi : Inv s) (hf : s.fault = none) (hpc : s.pc.toNat ≤ 0xFFE) {i : Instr}
    (h : exec i s.advance = .next t) : Inv t where
  mem_wf := exec_keeps_wf h hi.mem_wf
  pc_le := by
    have hadv := advance_pc_toNat hpc
    rcases exec_pc_cases h with e | e | ⟨nnn, e⟩ | ⟨k, e⟩
    · rw [e]; omega
    · rw [e, BitVec.toNat_add]; simp; omega
    · have := absolute_toNat_lt nnn; rw [e]; omega
    · have := hi.stack_le k; rw [e, advance_stack]; omega
  stack_le k := by
    have hadv := advance_pc_toNat hpc
    rcases exec_stack_cases h k with e | e
    · rw [e]; exact hi.stack_le k
    · rw [e]; omega
  fault_consistent := by
    rcases exec_fault_cases h with e | ⟨c, hc, rfl, hover, hunder⟩
    · exact faultConsistent_of_none (e.trans hf)
    · exact faultConsistent_raiseIn hpc hc hover hunder

theorem step_keeps_inv (hi : Inv s) (h : step s = .next t) : Inv t := by
  rcases step_cases s with ⟨f, hf⟩ | ⟨hf, hw⟩ | ⟨w, why, hf, hw, hd⟩ | ⟨w, i, hf, hw, hd⟩
  · rw [step_of_halted hf] at h; cases h; exact hi
  · rw [step_of_fetchFailure hf hw] at h; cases h
    exact { hi with fault_consistent := faultConsistent_fetchFailure hw }
  · rw [step_of_unknown hf hw hd] at h; cases h
    have hpc := (fetchWord_eq_some_iff.mp hw).1
    have hadv := advance_pc_toNat hpc
    exact { hi with
      pc_le := by rw [raiseUnknown_pc]; omega
      fault_consistent := faultConsistent_of_none hf }
  · rw [step_of_instr hf hw hd] at h
    exact exec_keeps_inv hi hf (fetchWord_eq_some_iff.mp hw).1 h

theorem inv_reset : Inv State.reset where
  mem_wf := Memory.wf_nil
  pc_le := by decide
  stack_le := by decide
  fault_consistent := faultConsistent_of_none rfl

/-- Storing bytes within the address space keeps the invariant. -/
theorem setMem_writeBytes_keeps_inv (hi : Inv s) {a : Nat} {bytes : List Byte} (h : a + bytes.length ≤ 0x1000) :
    Inv (s.setMem (Memory.writeBytes s.mem a bytes)) :=
  { hi with mem_wf := Memory.wf_writeBytes bytes hi.mem_wf h }

theorem load_of_gt {rom : List Byte} (h : rom.length > 3584) (s : State) :
    load rom s = (s, .romTooLarge rom.length) := if_pos h

theorem load_of_le {rom : List Byte} (h : rom.length ≤ 3584) (s : State) :
    load rom s = (State.reset.setMem (Memory.writeBytes State.reset.mem 0x200 rom), .ok) := if_neg (by simp; omega)

theorem perform_load_of_gt {rom : List Byte} (h : rom.length > 3584) (s : State) :
    perform (.load rom) s = .next (s, .load (.romTooLarge rom.length)) := by
  rw [perform, load_of_gt h]

theorem perform_load_of_le {rom : List Byte} (h : rom.length ≤ 3584) (s : State) :
    perform (.load rom) s =
      .next (State.reset.setMem (Memory.writeBytes State.reset.mem 0x200 rom), .load .ok) := by
  rw [perform, load_of_le h]

theorem load_keeps_inv (hi : Inv s) (rom : List Byte) : Inv (load rom s).1 := by
  rcases Nat.lt_or_ge 3584 rom.length with hlen | hlen
  · rw [load_of_gt hlen]; exact hi
  · rw [load_of_le hlen]; exact setMem_writeBytes_keeps_inv inv_reset (by omega)

theorem lowmemWrite_keeps_inv (hi : Inv s) (addr : Nat) (bytes : List Byte) : Inv (lowmemWrite addr bytes s).1 := by
  rw [lowmemWrite]
  split
  · next h =>
    obtain ⟨hpos, hlast⟩ := h
    rw [Config.reservedLowLast] at hlast
    exact setMem_writeBytes_keeps_inv hi (by omega)
  · exact hi

/-- Every operation completes and keeps the invariant (R118, R765). -/
theorem perform_keeps_inv (hi : Inv s) (op : Operation) : ∃ t r, perform op s = .next (t, r) ∧ Inv t := by
  cases op with
  | step =>
    obtain ⟨t, ht⟩ := step_answers s
    exact ⟨t, _, perform_step ht, step_keeps_inv hi ht⟩
  | tick => exact ⟨_, _, rfl, { hi with }⟩
  | reset => exact ⟨_, _, rfl, inv_reset⟩
  | load rom => exact ⟨_, _, rfl, load_keeps_inv hi rom⟩
  | setKeys k => exact ⟨_, _, rfl, { hi with }⟩
  | ackRedraw => exact ⟨_, _, rfl, { hi with }⟩
  | lowmemWrite addr bytes => exact ⟨_, _, rfl, lowmemWrite_keeps_inv hi addr bytes⟩
  | observe => exact ⟨_, _, rfl, hi⟩

theorem performAll_cons {op : Operation} {r : OperationResult} (h : perform op s = .next (t, r))
    (ops : List Operation) : performAll (op :: ops) s = performAll ops t := by
  simp [performAll, h]

theorem performAll_keeps_inv (ops : List Operation) (hi : Inv s) : ∃ t, performAll ops s = .next t ∧ Inv t := by
  induction ops generalizing s with
  | nil => exact ⟨s, rfl, hi⟩
  | cons op ops ih =>
    obtain ⟨t, r, ht, hit⟩ := perform_keeps_inv hi op
    rw [performAll_cons ht]
    exact ih hit

/-! ## The latch and UNK_SEEN (R113, R114) -/

/-- A STEP keeps a latched record and a set UNK_SEEN (R713, R114). -/
theorem step_keeps_latch (h : step s = .next t) :
    (∀ f, s.fault = some f → t.fault = some f) ∧ (s.unkSeen = true → t.unkSeen = true) := by
  rcases step_cases s with ⟨f, hf⟩ | ⟨hf, hw⟩ | ⟨w, why, hf, hw, hd⟩ | ⟨w, i, hf, hw, hd⟩
  · rw [step_of_halted hf] at h; cases h; exact ⟨fun _ => id, id⟩
  · rw [step_of_fetchFailure hf hw] at h; cases h; exact ⟨by simp [hf], id⟩
  · rw [step_of_unknown hf hw hd] at h; cases h; exact ⟨by simp [hf], fun _ => rfl⟩
  · rw [step_of_instr hf hw hd] at h
    exact ⟨by simp [hf], fun hu => (exec_writesOnlyNamed h).unkSeen.trans hu⟩

theorem lowmemWrite_fault (addr : Nat) (bytes : List Byte) (s : State) :
    (lowmemWrite addr bytes s).1.fault = s.fault := by
  rw [lowmemWrite]; split <;> rfl

theorem lowmemWrite_unkSeen (addr : Nat) (bytes : List Byte) (s : State) :
    (lowmemWrite addr bytes s).1.unkSeen = s.unkSeen := by
  rw [lowmemWrite]; split <;> rfl

end Sys2Proof.Machine
end

section
/-! Proofs for the family 10_state: the obligations, each from the lemmas above. -/

open Sys2Proof Sys2Proof.Machine

/-- Settles O14: each STEP reads and shows only what the two states share. -/
theorem hiddenStateDoesNotAct : Obligations.HiddenStateDoesNotAct := by
  intro s s' h
  obtain ⟨t, t', ht, ht', hsame⟩ := h.step_related
  exact ⟨t, t', ht, ht', hsame, h.stepResult_eq hsame⟩

/-- Settles O54, by the four cases of STEP. -/
theorem stepKeepsInvariant : Obligations.StepKeepsInvariant := fun _ _ hi h => step_keeps_inv hi h

/-- Settles O55, by induction on the list of operations. -/
theorem operationsKeepInvariant : Obligations.OperationsKeepInvariant := fun ops _ hi => performAll_keeps_inv ops hi

/-- Settles O39, by the named writers of each instruction. -/
theorem onlyNamedWritersWrite : Obligations.OnlyNamedWritersWrite := by
  intro i s
  obtain ⟨t, ht⟩ := exec_answers i s
  have hn := exec_writesOnlyNamed ht
  exact ⟨t, ht, hn.reg, hn.pc, hn.ireg, hn.stack, hn.sp, hn.dt, hn.st, hn.frame, hn.mem, hn.fault, hn.key, hn.unkSeen⟩

/-- Settles O30: the register part of the named writers, at VF. -/
theorem onlySixWriteVfAside : Obligations.OnlySixWriteVfAside := by
  intro i s
  obtain ⟨t, ht⟩ := exec_answers i s
  exact ⟨t, ht, fun hm hd => (exec_writesOnlyNamed ht).reg 15 hd fun _ => hm⟩

/-- Settles O52, by the operations. -/
theorem latchOutlivesAllButReset : Obligations.LatchOutlivesAllButReset := by
  intro op s
  cases op with
  | step =>
    obtain ⟨t, ht⟩ := step_answers s
    exact ⟨t, _, perform_step ht, by simp, fun _ _ => step_keeps_latch ht⟩
  | reset => exact ⟨_, _, rfl, fun _ => ⟨rfl, rfl⟩, fun h => absurd rfl h⟩
  | load rom =>
    rcases Nat.lt_or_ge 3584 rom.length with hlen | hlen
    · exact ⟨_, _, perform_load_of_gt hlen s, by simp, fun _ _ => ⟨fun _ => id, id⟩⟩
    · exact ⟨_, _, perform_load_of_le hlen s, fun _ => ⟨rfl, rfl⟩, fun _ h => absurd rfl h⟩
  | lowmemWrite addr bytes =>
    exact ⟨_, _, rfl, by simp, fun _ _ => by rw [lowmemWrite_fault, lowmemWrite_unkSeen]; exact ⟨fun _ => id, id⟩⟩
  | tick | setKeys | ackRedraw | observe => exact ⟨_, _, rfl, by simp, fun _ _ => ⟨fun _ => id, id⟩⟩

/-- Settles O46: RESET answers the reset state, whose items are R117's. -/
theorem resetSetsEveryItem : Obligations.ResetSetsEveryItem := by
  intro s
  have hreg : ∀ r, State.reset.reg r = 0#8 := by decide
  have hstack : ∀ k : Fin 16, State.reset.stack[k] = 0#16 := by decide
  have hkey : ∀ k : Key, State.reset.key[k] = false := by decide
  exact ⟨State.reset, rfl, rfl, fun _ => rfl, hreg, rfl, rfl, hstack, rfl, rfl, rfl, Framebuffer.get_clear, hkey,
    rfl, rfl, rfl⟩

/-- Settles O53, part by part of the invariant. -/
theorem invariantHoldsAtReset : Obligations.InvariantHoldsAtReset := inv_reset
end

section
/-! Proofs for the family 20_memory, the layer of facts: what a canonical memory lists, what FX55 and FX33 leave in memory,
and what a fetch after a run of writes reads. -/

namespace Sys2Proof.Machine

/-! ## A canonical memory is determined by its reads (R200, R224) -/

/-- An address below every listed one is not listed. -/
theorem Memory.read_of_lt {m : Memory} {a : Nat} (h : ∀ c ∈ m, a < c.1) : Memory.read m a = Memory.unlisted := by
  induction m with
  | nil => rfl
  | cons c rest ih =>
    obtain ⟨hc, hrest⟩ := List.forall_mem_cons.mp h
    rw [Memory.read, if_neg hc.ne', ih hrest]

/-- With the addresses strictly rising, a cell is listed exactly when its address reads as its byte, for every byte but
the one of an unlisted address. -/
theorem Memory.mem_iff_read_of_rising {m : Memory} (h : m.Pairwise (fun c d => c.1 < d.1)) {a : Nat} {u : Byte}
    (hu : u ≠ Memory.unlisted) : (a, u) ∈ m ↔ Memory.read m a = u := by
  induction m with
  | nil => simp [Memory.read, hu.symm]
  | cons c rest ih =>
    obtain ⟨b, t⟩ := c
    obtain ⟨hb, hrest⟩ := List.pairwise_cons.mp h
    by_cases hba : b = a
    · subst hba
      have hout : (b, u) ∉ rest := fun hmem => lt_irrefl b (hb _ hmem)
      simp [Memory.read, hout, eq_comm]
    · simp [Memory.read, hba, Ne.symm hba, ih hrest]

/-- The cells of a canonical memory are the addresses that read as something else than an unlisted one, with their bytes. -/
theorem Memory.mem_iff_read {m : Memory} (h : Memory.wf m) (c : Host.Cell) :
    c ∈ m ↔ c.2 ≠ Memory.unlisted ∧ Memory.read m c.1 = c.2 := by
  obtain ⟨hrise, hcells⟩ := h
  constructor
  · intro hc
    have hu := (hcells c hc).1
    exact ⟨hu, (Memory.mem_iff_read_of_rising hrise hu).mp hc⟩
  · rintro ⟨hu, hread⟩
    exact (Memory.mem_iff_read_of_rising hrise hu).mpr hread

theorem Memory.eq_of_read_eq {m m' : Memory} (h : Memory.wf m) (h' : Memory.wf m')
    (hread : ∀ a, Memory.read m a = Memory.read m' a) : m = m' := by
  have : Std.Asymm fun c d : Host.Cell => c.1 < d.1 := ⟨fun _ _ => Nat.lt_asymm⟩
  refine h.1.eq_of_mem_iff h'.1 fun c => ?_
  rw [Memory.mem_iff_read h, Memory.mem_iff_read h', hread]

/-! ## What FX55 and FX33 store (R553, R554) -/

theorem exec_ldMemVx_of_inRange {x : Reg} {s : State} (h : s.ireg.toNat + x.val ≤ 0xFFF) :
    exec (.ldMemVx x) s =
      .next (s.setMem (Memory.writeBytes s.mem s.ireg.toNat (s.v.toList.take (blockCount x)))) :=
  if_pos ((indexRangeOk_iff s _).mpr (.inr (by simp only [blockCount]; omega)))

theorem exec_ldBVx_of_inRange {x : Reg} {s : State} (h : s.ireg.toNat + 2 ≤ 0xFFF) :
    exec (.ldBVx x) s = .next (s.setMem (Memory.writeBytes s.mem s.ireg.toNat (bcdDigits (s.reg x)))) :=
  if_pos ((indexRangeOk_iff s 3).mpr (.inr (by omega)))

theorem length_take_blockCount (s : State) (x : Reg) :
    (s.v.toList.take (blockCount x)).length = x.val + 1 := by
  simp [blockCount]

/-- The bytes FX55 stores are the registers (R554). -/
theorem getElem_take_blockCount (s : State) {x k : Reg} (hk : k.val < (s.v.toList.take (blockCount x)).length) :
    (s.v.toList.take (blockCount x))[k.val] = s.reg k := by
  simp [State.reg]

@[simp] theorem length_bcdDigits (b : Byte) : (bcdDigits b).length = 3 := rfl

/-- Each digit fits a byte, so it is stored whole (R553). -/
theorem toNat_getElem_bcdDigits (b : Byte) :
    (bcdDigits b)[0].toNat = b.toNat / 100 ∧ (bcdDigits b)[1].toNat = b.toNat / 10 % 10 ∧
      (bcdDigits b)[2].toNat = b.toNat % 10 := by
  have := b.isLt
  simp only [bcdDigits, List.getElem_cons_zero, List.getElem_cons_succ, BitVec.toNat_ofNat]
  omega

/-! ## A fetch after a run of writes (R233) -/

/-- A fetch after a run of writes reads the bytes written where they were and the memory before elsewhere. -/
theorem fetchesFrom_setMem_writeBytes (s : State) (base : Nat) (bytes : List Byte) :
    FetchesFrom (s.setMem (Memory.writeBytes s.mem base bytes)) fun a b =>
      (∀ k (hk : k < bytes.length), a = base + k → b = bytes[k]) ∧
      (¬ bytesFrom base bytes.length a → b = Memory.read s.mem a) := by
  refine fetchesFrom_of_reads fun a _ => ⟨?_, Memory.read_writeBytes_outside bytes s.mem⟩
  rintro k hk rfl
  exact Memory.read_writeBytes_inside bytes s.mem base k hk

theorem FetchesFrom.mono {t : State} {p q : Nat → Byte → Prop} (h : FetchesFrom t p)
    (hpq : ∀ a b, p a b → q a b) : FetchesFrom t q := fun pc hpc => by
  obtain ⟨hi, lo, hw, hhi, hlo⟩ := h pc hpc
  exact ⟨hi, lo, hw, hpq _ _ hhi, hpq _ _ hlo⟩

end Sys2Proof.Machine
end

section
/-! Proofs for the family 20_memory: the obligations, each from the lemmas above. -/

open Sys2Proof Sys2Proof.Machine

/-- Settles O56: a canonical memory lists exactly the cells its reads show, in the order of their addresses. -/
theorem canonicalMemoriesAreEqual : Obligations.CanonicalMemoriesAreEqual := fun _ _ => Memory.eq_of_read_eq

/-- Settles O38: both instructions are one run of writes, and a fetch reads the memory that run leaves. -/
theorem fetchSeesStores : Obligations.FetchSeesStores := by
  refine ⟨fun x s h => ⟨_, exec_ldMemVx_of_inRange h, ?_⟩, fun x s h => ⟨_, exec_ldBVx_of_inRange h, ?_⟩⟩
  · refine (fetchesFrom_setMem_writeBytes s _ _).mono fun a b ⟨hin, hout⟩ => ⟨fun k hk ha => ?_, ?_⟩
    · have hlen := (Nat.lt_succ_of_le hk).trans_eq (length_take_blockCount s x).symm
      rw [hin k hlen ha, getElem_take_blockCount]
    · rwa [length_take_blockCount] at hout
  · obtain ⟨hundreds, tens, ones⟩ := toNat_getElem_bcdDigits (s.reg x)
    exact (fetchesFrom_setMem_writeBytes s _ _).mono fun a b ⟨hin, hout⟩ =>
      ⟨fun ha => hin 0 (by simp) ha ▸ hundreds, fun ha => hin 1 (by simp) ha ▸ tens,
        fun ha => hin 2 (by simp) ha ▸ ones, hout⟩
end

section
/-! Proofs for the family 30_encoding, the layer of facts: a word from its masked bits, the word of the
instruction the decoder read, the rows of the opcode map, and the unknown words of each family. -/

namespace Sys2Proof

open Laws

variable {w : Word} {i : Instr} {f : BitVec 4}

/-! ## A word from its family and its selector (R302) -/

theorem packXNN_of_fields {nn : Byte} (hf : (fieldF w).val = f.toNat) (hnn : (fieldNN w).toNat = nn.toNat) :
    packXNN f (fieldX w) nn = w := by
  rw [← BitVec.eq_of_toNat_eq hnn, packXNN_fields f hf]

theorem packXYN_of_fields {n : BitVec 4} (hf : (fieldF w).val = f.toNat) (hn : (fieldN w).toNat = n.toNat) :
    packXYN f (fieldX w) (fieldY w) n = w := by
  rw [← BitVec.eq_of_toNat_eq hn, packXYN_fields f hf]

/-! ## Encoding undoes decoding (R305, R308) -/

theorem encode_of_decodeFamily0 (h : decodeFamily0 w = .instr i) : encode i = w := by
  unfold decodeFamily0 at h
  split_ifs at h with hcls hret
  · cases h; exact hcls.symm
  · cases h; exact hret.symm

theorem encode_of_decodeFamily5 (hf : (fieldF w).val = 0x5) (h : decodeFamily5 w = .instr i) : encode i = w := by
  unfold decodeFamily5 at h
  split_ifs at h with hn
  cases h
  exact packXYN_of_fields hf (congrArg BitVec.toNat hn)

theorem encode_of_decodeFamily8 (hf : (fieldF w).val = 0x8) (h : decodeFamily8 w = .instr i) : encode i = w := by
  unfold decodeFamily8 at h
  split at h <;> cases h
  all_goals exact packXYN_of_fields hf ‹_›

theorem encode_of_decodeFamilyF (hf : (fieldF w).val = 0xF) (h : decodeFamilyF w = .instr i) : encode i = w := by
  unfold decodeFamilyF at h
  split at h <;> cases h
  all_goals exact packXNN_of_fields hf ‹_›

/-- Each word has one meaning: the dispatch on the family, then on the selector, loses no bit of the word. -/
theorem encode_of_decodeWord (h : decodeWord w = .instr i) : encode i = w := by
  unfold decodeWord at h
  split at h
  case h_1 => exact encode_of_decodeFamily0 h
  case h_6 hf => exact encode_of_decodeFamily5 hf h
  case h_9 hf => exact encode_of_decodeFamily8 hf h
  case h_16 =>
    simp only [imp_false] at *
    exact encode_of_decodeFamilyF (by omega) h
  all_goals cases h
  case h_2 hf | h_3 hf | h_11 hf => exact packNNN_fields _ hf
  case h_4 hf | h_5 hf | h_7 hf | h_8 hf => exact packXNN_fields _ hf
  case h_14 hf => exact packXYN_fields _ hf

/-- Decoding and encoding are inverse to each other. -/
theorem decodeWord_eq_instr_iff : decodeWord w = .instr i ↔ encode i = w :=
  ⟨encode_of_decodeWord, fun h => h ▸ Machine.decodeWord_encode i⟩

/-! ## A word from its masked bits (R307) -/

/-- The mask of the upper four bits keeps the family. -/
theorem fieldF_of_and_family (h : w &&& 0xF000#16 = packNNN f 0#12) : (fieldF w).val = f.toNat := by
  rw [← packNNN_fields (w := w) (w.extractLsb' 12 4) rfl, packNNN_and] at h
  have hf := congrArg (fun u => (fieldF u).val) h
  simp only [fieldF_packNNN] at hf
  exact hf

theorem packXYN_of_and_low {n : BitVec 4} (h : w &&& 0xF00F#16 = packXYN f 0 0 n) :
    packXYN f (fieldX w) (fieldY w) n = w := by
  rw [← packXYN_fields (w := w) (w.extractLsb' 12 4) rfl, packXYN_and_low] at h
  have hf := congrArg (fun u => (fieldF u).val) h
  have hn := congrArg fieldN h
  simp only [fieldF_packXYN, fieldN_packXYN] at hf hn
  exact packXYN_of_fields hf (congrArg BitVec.toNat hn)

theorem packXNN_of_and_low {nn : Byte} (h : w &&& 0xF0FF#16 = packXNN f 0 nn) : packXNN f (fieldX w) nn = w := by
  rw [← packXNN_fields (w := w) (w.extractLsb' 12 4) rfl, packXNN_and_low] at h
  have hf := congrArg (fun u => (fieldF u).val) h
  have hnn := congrArg fieldNN h
  simp only [fieldF_packXNN, fieldNN_packXNN] at hf hnn
  exact packXNN_of_fields hf (congrArg BitVec.toNat hnn)

theorem packNNN_of_and_family (h : w &&& 0xF000#16 = packNNN f 0#12) : packNNN f (fieldNNN w) = w :=
  packNNN_fields f (fieldF_of_and_family h)

theorem packXNN_of_and_family (h : w &&& 0xF000#16 = packNNN f 0#12) : packXNN f (fieldX w) (fieldNN w) = w :=
  packXNN_fields f (fieldF_of_and_family h)

theorem packXYN_of_and_family (h : w &&& 0xF000#16 = packNNN f 0#12) :
    packXYN f (fieldX w) (fieldY w) (fieldN w) = w :=
  packXYN_fields f (fieldF_of_and_family h)

/-! ## The rows of the opcode map (R306, R307) -/

theorem matchesRow (i : Instr) : MatchesRow.Statement i := by
  cases i
  exacts [MatchesRow.cls, MatchesRow.ret, MatchesRow.jp _, MatchesRow.call _, MatchesRow.seImm _ _,
    MatchesRow.sneImm _ _, MatchesRow.seReg _ _, MatchesRow.ldImm _ _, MatchesRow.addImm _ _, MatchesRow.ldReg _ _,
    MatchesRow.or _ _, MatchesRow.and _ _, MatchesRow.xor _ _, MatchesRow.addReg _ _, MatchesRow.sub _ _,
    MatchesRow.shr _ _, MatchesRow.subn _ _, MatchesRow.shl _ _, MatchesRow.ldI _, MatchesRow.drw _ _ _,
    MatchesRow.ldVxDt _, MatchesRow.ldDtVx _, MatchesRow.ldStVx _, MatchesRow.addIVx _, MatchesRow.ldFVx _,
    MatchesRow.ldBVx _, MatchesRow.ldMemVx _, MatchesRow.ldVxMem _]

/-- The name of a row is its key. -/
theorem opcodeMap_name_injective {r q : OpcodeRow} (hr : r ∈ opcodeMap) (hq : q ∈ opcodeMap) (h : r.name = q.name) :
    r = q :=
  List.inj_on_of_nodup_map (by decide : (opcodeMap.map OpcodeRow.name).Nodup) hr hq h

theorem and_mask_of_encode {row : OpcodeRow} (hrow : row ∈ opcodeMap) (h : i.mnemonic = row.name) :
    encode i &&& row.mask = row.matchBits := by
  obtain ⟨-, row', hmem, hname, hmatch⟩ := matchesRow i
  rw [opcodeMap_name_injective hrow hmem (h.symm.trans hname.symm)]
  exact eq_of_beq hmatch

/-- A word that matches a row is the word of an instruction of that row, with the fields of the word for operands. -/
theorem exists_encode_of_and_mask {row : OpcodeRow} (hrow : row ∈ opcodeMap) (h : w &&& row.mask = row.matchBits) :
    ∃ i : Instr, i.mnemonic = row.name ∧ encode i = w := by
  have whole (u : Word) (hu : w &&& 0xFFFF#16 = u) : u = w := by
    rw [← hu, show 0xFFFF#16 = BitVec.allOnes 16 from rfl, BitVec.and_allOnes]
  simp only [opcodeMap, List.mem_append, List.mem_cons, List.not_mem_nil, or_false] at hrow
  rcases hrow with ((rfl | rfl | rfl | rfl | rfl | rfl | rfl | rfl | rfl) |
    (rfl | rfl | rfl | rfl | rfl | rfl | rfl | rfl | rfl)) |
    (rfl | rfl | rfl | rfl | rfl | rfl | rfl | rfl | rfl | rfl)
  exacts [⟨.cls, rfl, whole _ h⟩, ⟨.ret, rfl, whole _ h⟩,
    ⟨.jp _, rfl, packNNN_of_and_family h⟩, ⟨.call _, rfl, packNNN_of_and_family h⟩,
    ⟨.seImm _ _, rfl, packXNN_of_and_family h⟩, ⟨.sneImm _ _, rfl, packXNN_of_and_family h⟩,
    ⟨.seReg _ _, rfl, packXYN_of_and_low h⟩,
    ⟨.ldImm _ _, rfl, packXNN_of_and_family h⟩, ⟨.addImm _ _, rfl, packXNN_of_and_family h⟩,
    ⟨.ldReg _ _, rfl, packXYN_of_and_low h⟩, ⟨.or _ _, rfl, packXYN_of_and_low h⟩,
    ⟨.and _ _, rfl, packXYN_of_and_low h⟩, ⟨.xor _ _, rfl, packXYN_of_and_low h⟩,
    ⟨.addReg _ _, rfl, packXYN_of_and_low h⟩, ⟨.sub _ _, rfl, packXYN_of_and_low h⟩,
    ⟨.shr _ _, rfl, packXYN_of_and_low h⟩, ⟨.subn _ _, rfl, packXYN_of_and_low h⟩,
    ⟨.shl _ _, rfl, packXYN_of_and_low h⟩,
    ⟨.ldI _, rfl, packNNN_of_and_family h⟩, ⟨.drw _ _ _, rfl, packXYN_of_and_family h⟩,
    ⟨.ldVxDt _, rfl, packXNN_of_and_low h⟩, ⟨.ldDtVx _, rfl, packXNN_of_and_low h⟩,
    ⟨.ldStVx _, rfl, packXNN_of_and_low h⟩, ⟨.addIVx _, rfl, packXNN_of_and_low h⟩,
    ⟨.ldFVx _, rfl, packXNN_of_and_low h⟩, ⟨.ldBVx _, rfl, packXNN_of_and_low h⟩,
    ⟨.ldMemVx _, rfl, packXNN_of_and_low h⟩, ⟨.ldVxMem _, rfl, packXNN_of_and_low h⟩]

/-- The row of a decoded word is the one it matches. -/
theorem exists_decodeWord_iff_and_mask {row : OpcodeRow} (hrow : row ∈ opcodeMap) :
    (∃ i, decodeWord w = .instr i ∧ i.mnemonic = row.name) ↔ w &&& row.mask = row.matchBits := by
  constructor
  · rintro ⟨i, hi, hname⟩
    rw [← encode_of_decodeWord hi]
    exact and_mask_of_encode hrow hname
  · intro h
    obtain ⟨i, hname, hi⟩ := exists_encode_of_and_mask hrow h
    exact ⟨i, decodeWord_eq_instr_iff.mpr hi, hname⟩

/-! ## The unknown words (R309) -/

theorem exists_decodeFamily0_unknown_iff :
    (∃ why, decodeFamily0 w = .unknown why) ↔ w ≠ 0x00E0#16 ∧ w ≠ 0x00EE#16 := by
  unfold decodeFamily0
  split_ifs with hcls hret <;> simp [*]

theorem exists_decodeFamily5_unknown_iff :
    (∃ why, decodeFamily5 w = .unknown why) ↔ w.toNat % 16 ≠ 0 := by
  have hzero : (fieldN w).toNat = 0 ↔ fieldN w = 0#4 := BitVec.toNat_inj (y := 0#4)
  rw [← fieldN_toNat, ne_eq, hzero, decodeFamily5]
  split_ifs with hn <;> simp [hn]

theorem exists_decodeFamily8_unknown_iff :
    (∃ why, decodeFamily8 w = .unknown why) ↔ w.toNat % 16 ∈ [0x8, 0x9, 0xA, 0xB, 0xC, 0xD, 0xF] := by
  unfold decodeFamily8
  rw [← fieldN_toNat]
  have hlt := (fieldN w).isLt
  generalize (fieldN w).toNat = n at *
  interval_cases n <;> simp

theorem exists_decodeFamilyF_unknown_iff :
    (∃ why, decodeFamilyF w = .unknown why) ↔
      w.toNat % 256 ∉ [0x07, 0x15, 0x18, 0x1E, 0x29, 0x33, 0x55, 0x65] := by
  unfold decodeFamilyF
  rw [← fieldNN_toNat]
  split <;> simp_all

end Sys2Proof
end

section
/-! Proofs for the family 30_encoding: the obligations, each from the lemmas above. -/

open Sys2Proof Sys2Proof.Machine

/-- Settles O1: every instruction is the one its word decodes to. -/
theorem decodeOfEncodeIsIdentity : Obligations.DecodeOfEncodeIsIdentity := fun i _ => decodeWord_encode i

/-- Settles O2, by the dispatch on the family and the selector. -/
theorem encodeOfDecodeIsWord : Obligations.EncodeOfDecodeIsWord := fun _ _ => encode_of_decodeWord

/-- Settles O3: the words of a row's instructions are those that match it, and decoding is the inverse of encoding. -/
theorem decodeAgreesWithOpcodeMap : Obligations.DecodeAgreesWithOpcodeMap :=
  fun _ _ => exists_decodeWord_iff_and_mask

/-- Settles O4: a word decodes to one instruction, and its name is the key of the row. -/
theorem noWordMatchesTwoRows : Obligations.NoWordMatchesTwoRows := by
  refine ⟨rfl, fun w r hr q hq hwr hwq => ?_⟩
  obtain ⟨i, hi, hir⟩ := (exists_decodeWord_iff_and_mask hr).mpr hwr
  obtain ⟨j, hj, hjq⟩ := (exists_decodeWord_iff_and_mask hq).mpr hwq
  obtain rfl : i = j := Decoded.instr.inj (hi.symm.trans hj)
  exact opcodeMap_name_injective hr hq (hir.symm.trans hjq)

/-- Settles O5, family by family. -/
theorem unknownSpaceIsTheTable : Obligations.UnknownSpaceIsTheTable := by
  intro w
  rw [← fieldF_val, ← exists_decodeFamily0_unknown_iff, ← exists_decodeFamily5_unknown_iff,
    ← exists_decodeFamily8_unknown_iff, ← exists_decodeFamilyF_unknown_iff, decodeWord]
  have hlt := (fieldF w).isLt
  generalize (fieldF w).val = f at *
  interval_cases f <;> simp

/-- Settles O6, by running the decoder on each word. -/
theorem sampleWordsDecode : Obligations.SampleWordsDecode := by
  unfold Obligations.SampleWordsDecode
  decide
end

section
/-! Proofs for the family 40_cycle, the layer of facts: the two sides of the fetch range, PC after an instruction, the jump
to itself, and the word placed for STEP. -/

namespace Sys2Proof.Machine

variable {s t : State}

/-! ## The fetch (R402, R221) -/

/-- A word as arithmetic on its two bytes, the first the more significant. -/
theorem toNat_wordOfBytes (hi lo : Byte) : (wordOfBytes hi lo).toNat = hi.toNat * 256 + lo.toNat := by
  rw [wordOfBytes, BitVec.toNat_append, ← Nat.shiftLeft_add_eq_or_of_lt lo.isLt, Nat.shiftLeft_eq]

/-- At every PC in range the fetch answers the two bytes there. -/
theorem fetchWord_of_le (h : s.pc.toNat ≤ 0xFFE) :
    s.fetchWord = some (wordOfBytes (Memory.read s.mem s.pc.toNat) (Memory.read s.mem (s.pc.toNat + 1))) :=
  fetchWord_eq_some_iff.mpr ⟨h, rfl⟩

/-! ## PC after an instruction (R410) -/

/-- A skip tests its condition in the state before the advance, and adds 2 to the advance of the fetch (R456). -/
theorem skipIf_advance_pc (s : State) (c : Bool) :
    (s.advance.skipIf c).pc = if c then s.pc + 4#16 else s.pc + 2#16 := by
  rw [skipIf_pc, advance_pc, BitVec.add_assoc]; rfl

/-- PC after the instruction fetched from PC is its row of R410's table. -/
theorem exec_advance_pc {i : Instr} (h : exec i s.advance = .next t) : t.pc = pcAfter i s := by
  have hn := exec_writesOnlyNamed h
  cases i with
  | ret =>
    obtain ⟨hsp, rfl⟩ | ⟨k, hk, hsp, rfl⟩ := exec_ret_cases h
    · rw [advance_sp] at hsp; simp [pcAfter, hsp]
    · rw [advance_sp] at hsp; simp [pcAfter, hsp]
  | jp nnn => cases h; rfl
  | call nnn =>
    obtain ⟨hsp, rfl⟩ | ⟨hsp, rfl⟩ := exec_call_cases h
    · rw [advance_sp] at hsp; simp [pcAfter, hsp]
    · exact (if_pos hsp).symm
  | seImm | sneImm | seReg => cases h; rw [skipIf_advance_pc]; simp [pcAfter]
  | _ => exact hn.pc (by simp [Instr.mnemonic])

/-! ## The jump to itself (R409) -/

/-- An address that fits the field of a jump is the one the field holds. -/
theorem absolute_setWidth {w : Word} (h : w.toNat < 0x1000) : absolute (w.setWidth 12) = w := by
  apply BitVec.eq_of_toNat_eq
  rw [absolute, BitVec.toNat_setWidth, BitVec.toNat_setWidth]; omega

/-- The word `selfLoop` looks for is the one of the jump to PC. -/
theorem encode_jp_setWidth {w : Word} (h : w.toNat < 0x1000) : encode (.jp (w.setWidth 12)) = 0x1000#16 ||| w := by
  apply BitVec.eq_of_toNat_eq
  rw [encode, toNat_packNNN, BitVec.toNat_setWidth, Nat.mod_eq_of_lt h, BitVec.toNat_or]
  exact Nat.shiftLeft_add_eq_or_of_lt (i := 12) h 1

/-- A jump to the address it is fetched from changes nothing. -/
theorem step_of_jp_self (hf : s.fault = none) (hw : s.fetchWord = some (encode (.jp (s.pc.setWidth 12)))) :
    step s = .next s := by
  have hpc := (fetchWord_eq_some_iff.mp hw).1
  calc step s = exec (.jp (s.pc.setWidth 12)) s.advance := step_of_instr hf hw (decodeWord_encode _)
    _ = .next (s.advance.setPc (absolute (s.pc.setWidth 12))) := rfl
    _ = .next s := by rw [absolute_setWidth (by omega)]; rfl

/-- The word of the self-loop is fetched exactly where `selfLoop` says. -/
theorem fetchWord_of_selfLoop (h : selfLoop s = true) : s.fetchWord = some (encode (.jp (s.pc.setWidth 12))) := by
  have hw : s.fetchWord = some (0x1000#16 ||| s.pc) := eq_of_beq h
  have hpc := (fetchWord_eq_some_iff.mp hw).1
  rw [hw, encode_jp_setWidth (by omega)]

/-- The ends of a run: a latched fault, or a self-loop (R809). -/
theorem fault_or_selfLoop_of_runEnd (h : runEnd s ≠ .running) :
    (∃ f, s.fault = some f) ∨ (s.fault = none ∧ selfLoop s = true) := by
  cases hf : s.fault with
  | some f => exact .inl ⟨f, rfl⟩
  | none =>
    refine .inr ⟨rfl, ?_⟩
    by_contra hl
    simp [runEnd, hf, hl] at h

/-! ## The word placed for STEP (log entry 17) -/

/-- The placement changes FAULT, PC and the two bytes at the PC it leaves, and nothing else. -/
theorem frame_withFetchWord (s : State) (nbits w : Nat) :
    Frame [.pc, .fault] [] (bytesFrom (s.withFetchWord nbits w).pc.toNat 2) s (s.withFetchWord nbits w) := by
  refine ⟨fun x hx => ?_, fun r _ => rfl, fun a ha => ?_⟩
  · cases x with
    | pc | fault => simp at hx
    | _ => rfl
  · rw [withFetchWord_mem]
    exact Memory.read_writeBytes_outside _ _ ha

/-- STEP runs the instruction whose word has been placed. -/
theorem step_withFetchWord (s : State) (i : Instr) :
    step (s.withFetchWord 16 (encode i).toNat) = exec i (s.withFetchWord 16 (encode i).toNat).advance := by
  refine step_of_instr rfl (fetchWord_withFetchWord _ _ _) ?_
  rw [tableWord_toNat, decodeWord_encode]

end Sys2Proof.Machine
end

section
/-! Proofs for the family 40_cycle: the obligations, each from the lemmas above. -/

open Sys2Proof Sys2Proof.Machine

/-- Settles O7: the two bytes at PC are the word fetched, and the case of STEP for a decodable word. -/
theorem stepRunsDecodedInstruction : Obligations.StepRunsDecodedInstruction := by
  intro s i hf hpc _ hd
  rw [decodeBytes_cons] at hd
  exact step_of_instr hf (fetchWord_of_le hpc) (Prod.mk.inj hd).1

/-- Settles O8: the halted case of STEP and of its record. -/
theorem haltedStepChangesNothing : Obligations.HaltedStepChangesNothing := by
  intro s f hf
  rw [perform_step (step_of_halted hf), stepResult_of_halted hf]

/-- Settles O9, by the two sides of the fetch range. -/
theorem fetchOutOfRangeFaults : Obligations.FetchOutOfRangeFaults := by
  refine ⟨fun s hpc => ⟨_, fetchWord_of_le hpc, toNat_wordOfBytes _ _⟩, fun s hf hpc => ?_⟩
  have hw : s.fetchWord = none := fetchWord_eq_none_iff.mpr hpc
  rw [perform_step (step_of_fetchFailure hf hw), stepResult_of_fetchFailure hf hw]
  rfl

/-- Settles O11, by the four cases of STEP. -/
theorem pcAfterEveryStep : Obligations.PcAfterEveryStep := by
  intro s
  obtain ⟨t, ht⟩ := step_answers s
  refine ⟨t, ht, fun hf => ?_, fun hf hw => ?_, fun w why hf hw hd => ?_, fun w i hf hw hd => ?_⟩
  · obtain ⟨f, hf⟩ := Option.ne_none_iff_exists'.mp hf
    rw [step_of_halted hf] at ht; cases ht; rfl
  · rw [step_of_fetchFailure hf hw] at ht; cases ht; rfl
  · rw [step_of_unknown hf hw hd] at ht; cases ht; rfl
  · rw [step_of_instr hf hw hd] at ht; exact exec_advance_pc ht

/-- Settles O15: a latched fault halts STEP, and a self-loop is a jump to the address it is fetched from. -/
theorem endOfRunStays : Obligations.EndOfRunStays := by
  refine ⟨fun s hf _ hw => step_of_jp_self hf hw, fun s hend => ?_⟩
  obtain ⟨f, hf⟩ | ⟨hf, hl⟩ := fault_or_selfLoop_of_runEnd hend
  · exact step_of_halted hf
  · exact step_of_jp_self hf (fetchWord_of_selfLoop hl)

/-- Settles O57: what the placement leaves, and the word it makes STEP fetch. -/
theorem placedWordIsRun : Obligations.PlacedWordIsRun := by
  rintro s i _ rfl
  exact ⟨fun h => withFetchWord_pc_of_le h _ _, fun h => by rw [withFetchWord_pc_of_gt h]; rfl, rfl,
    step_withFetchWord s i, frame_withFetchWord s _ _⟩
end

section
/-! Proofs for the family 41_control_flow, the layer of facts: a decoded row from its encoding, a frame from the fields, a
fatal error from its operation, and where a jump and a skip leave PC. -/

namespace Sys2Proof.Machine

variable {s t : State}

/-! ## The row of an instruction (R302, R307) -/

/-- A row decodes to the instruction whose word, with the fields of the matching word as operands, is that word. -/
theorem encodedAs_of_encode {mask matchBits : Word} {make : Word → Instr}
    (h : ∀ w : Word, w &&& mask = matchBits → encode (make w) = w) : EncodedAs mask matchBits make :=
  fun w hw => decodeWord_eq_instr_iff.mpr (h w hw)

/-! ## Frames and fatal errors -/

/-- An instruction that writes neither a register nor memory has the frame of its items. -/
theorem frame_of_items {items : List Item} (h : ∀ x, x ∉ items → x.same s t) (hv : t.v = s.v) (hm : t.mem = s.mem) :
    Frame items [] nowhere s t :=
  ⟨h, fun r _ => reg_congr hv r, fun a _ => by rw [hm]⟩

theorem frame_setPc (s : State) (w : Word) : Frame [.pc] [] nowhere s (s.setPc w) := by
  refine frame_of_items (fun x hx => ?_) rfl rfl
  cases x with
  | pc => simp at hx
  | _ => rfl

/-- The shared operation that takes an error in execution takes it as R711 says. -/
theorem takesFatal_of_raiseIn {i : Instr} {c : FaultCode} (h : exec i s = .next (s.raiseIn i c)) :
    TakesFatal i c s := by
  intro a ha
  rw [h, State.raiseIn, insnAddr_of_pc ha]
  rfl

/-! ## Where PC goes -/

/-- Zero extension keeps the address (R303). -/
@[simp] theorem absolute_toNat (nnn : BitVec 12) : (absolute nnn).toNat = nnn.toNat :=
  BitVec.toNat_setWidth_of_le (by decide)

/-- An instruction that is a skip advances PC once more modulo 2^16 where its condition holds, and does nothing else
(R456). -/
theorem exec_of_skipIf {i : Instr} {c : Bool} {p : Prop} [Decidable p] (h : exec i s = .next (s.skipIf c))
    (hc : c = true ↔ p) :
    ∃ t, exec i s = .next t ∧ t.pc.toNat = (if p then (s.pc.toNat + 2) % 65536 else s.pc.toNat) ∧
      Frame [.pc] [] nowhere s t := by
  refine ⟨_, h, ?_, ?_⟩
  · by_cases hp : p
    · rw [skipIf_pc, if_pos (hc.mpr hp), if_pos hp, BitVec.toNat_add]; rfl
    · rw [skipIf_pc, if_neg (mt hc.mp hp), if_neg hp]
  · cases c with
    | true => exact frame_setPc s _
    | false => exact frame_of_items (fun x _ => by cases x <;> rfl) rfl rfl

end Sys2Proof.Machine
end

section
/-! Proofs for the family 41_control_flow: the obligations, each from the lemmas above. -/

open Sys2Proof Sys2Proof.Machine

/-- Settles O16, by the two cases of a pop. -/
theorem retPopsOrUnderflows : Obligations.RetPopsOrUnderflows := by
  refine ⟨encodedAs_of_encode fun _ hw => hw.symm.trans BitVec.and_allOnes,
    fun s k hsp => ⟨_, exec_ret_of_succ k.isLt hsp, rfl, rfl, frame_of_items (fun x hx => ?_) rfl rfl⟩,
    fun s hsp => takesFatal_of_raiseIn (exec_ret_of_empty hsp)⟩
  cases x with
  | pc | sp => simp at hx
  | _ => rfl

/-- Settles O17: the jump is the one write of PC. -/
theorem jpSetsPc : Obligations.JpSetsPc :=
  ⟨encodedAs_of_encode fun _ => packNNN_of_and_family (f := 0x1#4),
    fun nnn s => ⟨_, rfl, absolute_toNat nnn, frame_setPc s _⟩⟩

/-- Settles O18, by the two cases of a push. -/
theorem callPushesOrOverflows : Obligations.CallPushesOrOverflows := by
  refine ⟨encodedAs_of_encode fun _ => packNNN_of_and_family (f := 0x2#4), fun nnn s k hsp => ?_,
    fun nnn s hsp => takesFatal_of_raiseIn (exec_call_of_full nnn hsp)⟩
  obtain ⟨k, hk⟩ := k
  obtain rfl : s.sp.val = k := hsp
  refine ⟨_, exec_call_of_lt nnn hk, Vector.getElem_set_self hk, fun j hj => ?_, rfl, absolute_toNat nnn, ?_⟩
  · exact Vector.getElem_set_ne hk j.isLt fun e => hj (Fin.ext e.symm)
  · refine frame_of_items (fun x hx => ?_) rfl rfl
    cases x with
    | pc | stack | sp => simp at hx
    | _ => rfl

/-- Settles O19: each skip is `skipIf` of its condition. -/
theorem skipsAdvanceOnceMore : Obligations.SkipsAdvanceOnceMore :=
  ⟨encodedAs_of_encode fun _ => packXNN_of_and_family (f := 0x3#4),
    encodedAs_of_encode fun _ => packXNN_of_and_family (f := 0x4#4),
    encodedAs_of_encode fun _ => packXYN_of_and_low (f := 0x5#4) (n := 0x0#4),
    fun _ _ _ => exec_of_skipIf rfl beq_iff_eq, fun _ _ _ => exec_of_skipIf rfl bne_iff_ne,
    fun _ _ _ => exec_of_skipIf rfl beq_iff_eq⟩

/-- Settles O20: the RET pops the entry the CALL has pushed. -/
theorem retResumesAfterCall : Obligations.RetResumesAfterCall := by
  intro nnn s hsp
  refine ⟨_, exec_call_of_lt nnn hsp, fun t' hstack hsp' => ?_⟩
  have hpop : t'.sp.val = s.sp.val + 1 := congrArg Fin.val hsp'
  refine ⟨_, exec_ret_of_succ hsp hpop, ?_, rfl, rfl, rfl, rfl⟩
  calc t'.stack[s.sp.val] = (s.stack.set s.sp.val s.pc)[s.sp.val] := by rw [hstack]
    _ = s.pc := Vector.getElem_set_self hsp
end

section
/-! Proofs for the family 42_alu, the layer of facts: the frame of a register write, each flag as a number, and what an
instruction that writes V[x], or VF and then V[x], leaves in them. -/

namespace Sys2Proof.Machine

variable {s : State} {i : Instr} {x p q : Reg} {b : Byte} {c : Bool}

/-! ## Writes of registers only (R102, R103) -/

/-- A state that differs from another in its registers only has the frame of those that differ. -/
theorem frame_of_regs {regs : List Reg} {v : Vector Byte 16}
    (h : ∀ r, r ∉ regs → State.reg { s with v := v } r = s.reg r) : Frame [] regs nowhere s { s with v := v } :=
  ⟨fun x _ => by cases x <;> rfl, h, fun _ _ => rfl⟩

theorem frame_setReg (s : State) (x : Reg) (b : Byte) : Frame [] [x] nowhere s (s.setReg x b) :=
  frame_of_regs fun r hr => (reg_setReg s x r b).trans (if_neg (List.mem_singleton.not.mp hr))

theorem frame_setFlag_setReg (s : State) (c : Bool) (x : Reg) (b : Byte) :
    Frame [] [x, 15] nowhere s ((s.setFlag c).setReg x b) := by
  refine frame_of_regs fun r hr => ?_
  obtain ⟨hx, hvf⟩ : r ≠ x ∧ r ≠ 15 := by simpa using hr
  calc ((s.setFlag c).setReg x b).reg r = (s.setFlag c).reg r := by rw [reg_setReg, if_neg hx]
    _ = s.reg r := by rw [reg_setFlag, if_neg hvf]

/-- An instruction that is one register write leaves the value there and changes nothing else. -/
theorem exec_of_setReg (h : exec i s = .next (s.setReg x b)) :
    ∃ t, exec i s = .next t ∧ t.reg x = b ∧ Frame [] [x] nowhere s t :=
  ⟨_, h, (reg_setReg s x x b).trans (if_pos rfl), frame_setReg s x b⟩

/-- An instruction that writes the flag and then V[x] leaves the value in V[x], over the flag where `x` is VF, and changes
nothing else (R403). -/
theorem exec_of_setFlag_setReg (h : exec i s = .next ((s.setFlag c).setReg x b)) :
    ∃ t, exec i s = .next t ∧ t.reg x = b ∧ (x ≠ 15 → t.reg 15 = flagByte c) ∧ Frame [] [x, 15] nowhere s t := by
  refine ⟨_, h, (reg_setReg _ x x b).trans (if_pos rfl), fun hx => ?_, frame_setFlag_setReg s c x b⟩
  rw [reg_setReg, if_neg hx.symm, reg_setFlag, if_pos rfl]

theorem reg_setFlag_of_ne (s : State) (c : Bool) (h : q ≠ 15) : (s.setFlag c).reg q = s.reg q := by
  rw [reg_setFlag, if_neg h]

/-- A register read after the flag write, as a number: where it is VF, the flag. -/
theorem toNat_reg_setFlag (s : State) (c : Bool) (q : Reg) :
    ((s.setFlag c).reg q).toNat = if q = 15 then (flagByte c).toNat else (s.reg q).toNat := by
  rw [reg_setFlag, apply_ite BitVec.toNat]

/-! ## The flags as numbers (R506 to R510) -/

theorem toNat_flagByte_carryOut (n : Nat) : (flagByte (carryOut n)).toNat = if n > 255 then 1 else 0 := by
  simp [flagByte_toNat, carryOut]

theorem toNat_flagByte_strictlyAbove (a b : Byte) :
    (flagByte (strictlyAbove a b)).toNat = if a.toNat > b.toNat then 1 else 0 := by
  simp [flagByte_toNat, strictlyAbove]

theorem toNat_flagByte_testBit (n k : Nat) : (flagByte (n.testBit k)).toNat = n / 2 ^ k % 2 := by
  rw [← Nat.toNat_testBit]
  cases n.testBit k <;> rfl

theorem toNat_flagByte_bitOutRight (a : Byte) : (flagByte (bitOutRight a)).toNat = a.toNat % 2 := by
  have h := toNat_flagByte_testBit a.toNat 0
  rwa [pow_zero, Nat.div_one] at h

theorem toNat_flagByte_bitOutLeft (a : Byte) : (flagByte (bitOutLeft a)).toNat = a.toNat / 128 := by
  have h := toNat_flagByte_testBit a.toNat 7
  have hlt := a.isLt
  rwa [Nat.mod_eq_of_lt (by omega)] at h

/-! ## The arithmetic of bytes -/

theorem toNat_byte_sub (a b : Byte) : (a - b).toNat = (a.toNat + 256 - b.toNat) % 256 := by
  have hb := b.isLt
  rw [BitVec.toNat_sub]; omega

theorem toNat_byte_shiftRight (a : Byte) : (a >>> 1).toNat = a.toNat / 2 := by
  rw [BitVec.toNat_ushiftRight, Nat.shiftRight_eq_div_pow, pow_one]

theorem toNat_byte_shiftLeft (a : Byte) : (a <<< 1).toNat = 2 * a.toNat % 256 := by
  rw [BitVec.toNat_shiftLeft, Nat.shiftLeft_eq, pow_one, mul_comm]

/-! ## The subtractions (R507, R509) -/

/-- SUB and SUBN: the flag is the strict comparison of the entry values of `p` and `q`, and V[x] is the difference of what
these registers hold after the flag write, so an operand that is VF is the flag. -/
theorem exec_of_difference (h : let u := s.setFlag (strictlyAbove (s.reg p) (s.reg q))
      exec i s = .next (u.setReg x (u.reg p - u.reg q))) :
    ∃ t, exec i s = .next t ∧ Frame [] [x, 15] nowhere s t ∧
      ∀ f : Nat, f = (if (s.reg p).toNat > (s.reg q).toNat then 1 else 0) →
        (x ≠ 15 → (t.reg 15).toNat = f) ∧
        (p ≠ 15 → q ≠ 15 → (t.reg x).toNat = ((s.reg p).toNat + 256 - (s.reg q).toNat) % 256) ∧
        (p = 15 → q ≠ 15 → (t.reg x).toNat = (f + 256 - (s.reg q).toNat) % 256) ∧
        (p ≠ 15 → q = 15 → (t.reg x).toNat = ((s.reg p).toNat + 256 - f) % 256) ∧
        (p = 15 → q = 15 → (t.reg x).toNat = 0) := by
  obtain ⟨t, ht, hx, hvf, hframe⟩ := exec_of_setFlag_setReg h
  refine ⟨t, ht, hframe, fun f hf => ?_⟩
  rw [← toNat_flagByte_strictlyAbove] at hf
  have hdiff : (t.reg x).toNat =
      ((if p = 15 then f else (s.reg p).toNat) + 256 - (if q = 15 then f else (s.reg q).toNat)) % 256 := by
    rw [hx, toNat_byte_sub, toNat_reg_setFlag, toNat_reg_setFlag, ← hf]
  refine ⟨fun h15 => hf ▸ congrArg BitVec.toNat (hvf h15), fun hp hq => ?_, fun hp hq => ?_, fun hp hq => ?_,
    fun hp hq => ?_⟩
  · rw [hdiff, if_neg hp, if_neg hq]
  · rw [hdiff, if_pos hp, if_neg hq]
  · rw [hdiff, if_neg hp, if_pos hq]
  · rw [hdiff, if_pos hp, if_pos hq, Nat.add_sub_cancel_left]

end Sys2Proof.Machine
end

section
/-! Proofs for the family 42_alu: the obligations, each from the lemmas above. -/

open Sys2Proof Sys2Proof.Machine

/-- Settles O26: the difference of V[x] and V[y] after the flag write. -/
theorem subFlagsStrictly : Obligations.SubFlagsStrictly :=
  ⟨encodedAs_of_encode fun _ => packXYN_of_and_low (f := 0x8#4) (n := 0x5#4), fun _ _ _ => exec_of_difference rfl⟩

/-- Settles O28: the difference of V[y] and V[x] after the flag write, the operands of `SUB` exchanged. -/
theorem subnFlagsStrictly : Obligations.SubnFlagsStrictly := by
  refine ⟨encodedAs_of_encode fun _ => packXYN_of_and_low (f := 0x8#4) (n := 0x7#4), fun x y s => ?_⟩
  obtain ⟨t, ht, hframe, hcases⟩ := exec_of_difference (i := .subn x y) (s := s) rfl
  refine ⟨t, ht, hframe, fun f hf => ?_⟩
  obtain ⟨hvf, hneither, hyIsVf, hxIsVf, hboth⟩ := hcases f hf
  exact ⟨hvf, fun hx hy => hneither hy hx, fun hx hy => hxIsVf hy hx, fun hx hy => hyIsVf hy hx,
    fun hx hy => hboth hy hx⟩

/-- Settles O21: the instruction is one register write. -/
theorem ldImmLoads : Obligations.LdImmLoads :=
  ⟨encodedAs_of_encode fun _ => packXNN_of_and_family (f := 0x6#4), fun _ _ _ => exec_of_setReg rfl⟩

/-- Settles O22: the instruction is one register write, of a sum of bytes. -/
theorem addImmWraps : Obligations.AddImmWraps := by
  refine ⟨encodedAs_of_encode fun _ => packXNN_of_and_family (f := 0x7#4), fun x nn s => ?_⟩
  obtain ⟨t, ht, hx, hframe⟩ := exec_of_setReg (i := .addImm x nn) (s := s) rfl
  exact ⟨t, ht, hx ▸ BitVec.toNat_add _ _, hframe⟩

/-- Settles O23: the instruction is one register write. -/
theorem ldRegCopies : Obligations.LdRegCopies :=
  ⟨encodedAs_of_encode fun _ => packXYN_of_and_low (f := 0x8#4) (n := 0x0#4), fun _ _ _ => exec_of_setReg rfl⟩

/-- Settles O24: each of the three is one register write, of a byte that is bitwise. -/
theorem logicIsBitwise : Obligations.LogicIsBitwise := by
  refine ⟨encodedAs_of_encode fun _ => packXYN_of_and_low (f := 0x8#4) (n := 0x1#4),
    encodedAs_of_encode fun _ => packXYN_of_and_low (f := 0x8#4) (n := 0x2#4),
    encodedAs_of_encode fun _ => packXYN_of_and_low (f := 0x8#4) (n := 0x3#4),
    fun x y s => ?_, fun x y s => ?_, fun x y s => ?_⟩
  · obtain ⟨t, ht, hx, hframe⟩ := exec_of_setReg (i := .or x y) (s := s) rfl
    exact ⟨t, ht, hframe, fun k => hx ▸ BitVec.getLsbD_or⟩
  · obtain ⟨t, ht, hx, hframe⟩ := exec_of_setReg (i := .and x y) (s := s) rfl
    exact ⟨t, ht, hframe, fun k => hx ▸ BitVec.getLsbD_and⟩
  · obtain ⟨t, ht, hx, hframe⟩ := exec_of_setReg (i := .xor x y) (s := s) rfl
    exact ⟨t, ht, hframe, fun k => hx ▸ BitVec.getLsbD_xor⟩

/-- Settles O25: the sum of the entry values is written over the flag where `x` is VF. -/
theorem addRegCarries : Obligations.AddRegCarries := by
  refine ⟨encodedAs_of_encode fun _ => packXYN_of_and_low (f := 0x8#4) (n := 0x4#4), fun x y s => ?_⟩
  obtain ⟨t, ht, hx, hvf, hframe⟩ := exec_of_setFlag_setReg (i := .addReg x y) (s := s) rfl
  exact ⟨t, ht, hx ▸ BitVec.toNat_ofNat _ _, fun h15 => hvf h15 ▸ toNat_flagByte_carryOut _, hframe⟩

/-- Settles O27: the shift reads V[x] after the flag write, so VF shifted is the flag halved. -/
theorem shrMovesBitZeroOut : Obligations.ShrMovesBitZeroOut := by
  refine ⟨encodedAs_of_encode fun _ => packXYN_of_and_low (f := 0x8#4) (n := 0x6#4), fun x y s => ?_⟩
  obtain ⟨t, ht, hx, hvf, hframe⟩ := exec_of_setFlag_setReg (i := .shr x y) (s := s) rfl
  refine ⟨t, ht, hframe, fun h15 => ⟨?_, ?_⟩, fun h15 => ?_⟩
  · rw [hvf h15, toNat_flagByte_bitOutRight]
  · rw [hx, toNat_byte_shiftRight, reg_setFlag_of_ne s _ h15]
  · rw [hx, toNat_byte_shiftRight, toNat_reg_setFlag, if_pos h15, toNat_flagByte_bitOutRight]
    omega

/-- Settles O29: the shift reads V[x] after the flag write, so VF shifted is the flag doubled. -/
theorem shlMovesBitSevenOut : Obligations.ShlMovesBitSevenOut := by
  refine ⟨encodedAs_of_encode fun _ => packXYN_of_and_low (f := 0x8#4) (n := 0xE#4), fun x y s => ?_⟩
  obtain ⟨t, ht, hx, hvf, hframe⟩ := exec_of_setFlag_setReg (i := .shl x y) (s := s) rfl
  refine ⟨t, ht, hframe, fun h15 => ⟨?_, ?_⟩, fun h15 => ?_⟩
  · rw [hvf h15, toNat_flagByte_bitOutLeft]
  · rw [hx, toNat_byte_shiftLeft, reg_setFlag_of_ne s _ h15]
  · have hlt := (s.reg x).isLt
    rw [hx, toNat_byte_shiftLeft, toNat_reg_setFlag, if_pos h15, toNat_flagByte_bitOutLeft]
    omega
end

section
/-! Proofs for the family 43_index_memory, the layer of facts: the frames of an index write, of a run of stores and of a
block load, what FX55 leaves in memory and FX65 in the registers, and the range check of an access (R211). -/

namespace Sys2Proof.Machine

variable {s : State} {i : Instr}

/-! ## Writes of the index register (R550 to R552) -/

theorem frame_setIndex (s : State) (w : Word) : Frame [.ireg] [] nowhere s (s.setIndex w) := by
  refine frame_of_items (fun x hx => ?_) rfl rfl
  cases x with
  | ireg => simp at hx
  | _ => rfl

/-- The sum of I and a register, modulo 2^16 (R551). -/
theorem toNat_add_setWidth (w : Word) (b : Byte) : (w + b.setWidth 16).toNat = (w.toNat + b.toNat) % 65536 := by
  rw [BitVec.toNat_add, BitVec.toNat_setWidth_of_le (by decide)]

/-- Five times a byte fits I, so no glyph address wraps (R204, R552). -/
theorem toNat_glyphAddr (d : Byte) : (glyphAddr d).toNat = d.toNat * 5 := by
  have hd := d.isLt
  rw [glyphAddr, BitVec.toNat_ofNat, Config.fontGlyphBytes]
  omega

/-! ## The range check (R211) -/

/-- The bytes I to I + k are in range exactly when the last of them is. -/
theorem indexRangeOk_succ_iff (s : State) (k : Nat) : s.indexRangeOk (k + 1) ↔ s.ireg.toNat + k ≤ 0xFFF := by
  rw [indexRangeOk_iff]; omega

/-- An access from I that would go beyond 0xFFF takes AddressOutOfRange and does nothing else. -/
theorem takesFatal_of_index_gt {k : Nat} {t : State}
    (h : exec i s = if s.indexRangeOk (k + 1) then .next t else .next (s.raiseIn i .addressOutOfRange))
    (hk : s.ireg.toNat + k > 0xFFF) : TakesFatal i .addressOutOfRange s :=
  takesFatal_of_raiseIn (h.trans (if_neg ((indexRangeOk_succ_iff s k).not.mpr (Nat.not_le.mpr hk))))

/-! ## Stores (R553, R554) -/

theorem frame_setMem_writeBytes (s : State) (base : Nat) (bytes : List Byte) :
    Frame [] [] (bytesFrom base bytes.length) s (s.setMem (Memory.writeBytes s.mem base bytes)) :=
  ⟨fun x _ => by cases x <;> rfl, fun _ _ => rfl, fun _ ha => Memory.read_writeBytes_outside bytes s.mem ha⟩

/-- FX55 leaves V[k] at its place in the run of stores, for every k up to x. -/
theorem read_writeBytes_take_blockCount (s : State) (base : Nat) {x k : Reg} (hk : k ≤ x) :
    Memory.read (Memory.writeBytes s.mem base (s.v.toList.take (blockCount x))) (base + k.val) = s.reg k := by
  have hlen := (Nat.lt_succ_of_le hk).trans_eq (length_take_blockCount s x).symm
  rw [Memory.read_writeBytes_inside _ _ _ _ hlen, getElem_take_blockCount]

/-! ## The block load (R555) -/

theorem exec_ldVxMem_of_inRange {x : Reg} (h : s.ireg.toNat + x.val ≤ 0xFFF) :
    exec (.ldVxMem x) s = .next (loadRegs (blockCount x) s) :=
  if_pos ((indexRangeOk_succ_iff s x.val).mpr h)

theorem loadRegs_mem (n : Nat) (s : State) : (loadRegs n s).mem = s.mem :=
  (congrArg State.mem (loadRegs_eq n s) :)

theorem mem_regsUpTo {x r : Reg} : r ∈ regsUpTo x ↔ r ≤ x := by simp [regsUpTo]

theorem reg_loadRegs_of_le (s : State) {x r : Reg} (h : r ≤ x) :
    (loadRegs (blockCount x) s).reg r = Memory.read s.mem (s.ireg.toNat + r.val) :=
  (reg_loadRegs _ x.isLt s r).trans (if_pos (Nat.lt_succ_of_le h))

theorem reg_loadRegs_of_lt (s : State) {x r : Reg} (h : x < r) : (loadRegs (blockCount x) s).reg r = s.reg r :=
  (reg_loadRegs _ x.isLt s r).trans (if_neg (Nat.not_lt.mpr h))

theorem frame_loadRegs (s : State) (x : Reg) : Frame [] (regsUpTo x) nowhere s (loadRegs (blockCount x) s) := by
  rw [loadRegs_eq]
  refine frame_of_regs fun r hr => ?_
  rw [← loadRegs_eq]
  exact reg_loadRegs_of_lt s (not_le.mp (mem_regsUpTo.not.mp hr))

end Sys2Proof.Machine
end

section
/-! Proofs for the family 43_index_memory: the obligations, each from the lemmas above. -/

open Sys2Proof Sys2Proof.Machine

/-- Settles O34: the digits are one run of three stores. -/
theorem ldBStoresDigits : Obligations.LdBStoresDigits := by
  refine ⟨encodedAs_of_encode fun _ => packXNN_of_and_low (f := 0xF#4) (nn := 0x33#8), fun x s h => ?_,
    fun x s => takesFatal_of_index_gt (k := 2) rfl⟩
  have stored := Memory.read_writeBytes_inside (bcdDigits (s.reg x)) s.mem s.ireg.toNat
  obtain ⟨hundreds, tens, ones⟩ := toNat_getElem_bcdDigits (s.reg x)
  refine ⟨_, exec_ldBVx_of_inRange h, ?_, ?_, ?_, frame_setMem_writeBytes s _ _⟩
  · exact (congrArg BitVec.toNat (stored 0 (by simp))).trans hundreds
  · exact (congrArg BitVec.toNat (stored 1 (by simp))).trans tens
  · exact (congrArg BitVec.toNat (stored 2 (by simp))).trans ones

/-- Settles O35: the registers are one run of `x + 1` stores. -/
theorem ldMemStoresRegisters : Obligations.LdMemStoresRegisters := by
  refine ⟨encodedAs_of_encode fun _ => packXNN_of_and_low (f := 0xF#4) (nn := 0x55#8), fun x s h => ?_,
    fun x s => takesFatal_of_index_gt (k := x.val) rfl⟩
  have frame := frame_setMem_writeBytes s s.ireg.toNat (s.v.toList.take (blockCount x))
  rw [length_take_blockCount] at frame
  exact ⟨_, exec_ldMemVx_of_inRange h, fun k hk => read_writeBytes_take_blockCount s _ hk, frame⟩

/-- Settles O36: the instruction is the block load of `x + 1` registers. -/
theorem ldVxMemLoadsRegisters : Obligations.LdVxMemLoadsRegisters :=
  ⟨encodedAs_of_encode fun _ => packXNN_of_and_low (f := 0xF#4) (nn := 0x65#8),
    fun x s h => ⟨_, exec_ldVxMem_of_inRange h, fun _ hk => reg_loadRegs_of_le s hk, frame_loadRegs s x⟩,
    fun x _ => takesFatal_of_index_gt (k := x.val) rfl⟩

/-- Settles O37: each register up to V[x] is loaded from the byte it was stored to. -/
theorem storeThenLoadRestores : Obligations.StoreThenLoadRestores := by
  intro x s h
  refine ⟨_, exec_ldMemVx_of_inRange h, fun t' hmem hireg => ?_⟩
  have hsame : t'.ireg = s.ireg := hireg
  refine ⟨_, exec_ldVxMem_of_inRange (hsame ▸ h), fun k hk => ?_, fun k hk => reg_loadRegs_of_lt t' hk,
    (loadRegs_mem _ t').trans hmem⟩
  rw [reg_loadRegs_of_le t' hk, hmem, hsame]
  exact read_writeBytes_take_blockCount s _ hk

/-- Settles O31: the instruction is one write of I. -/
theorem ldILoads : Obligations.LdILoads :=
  ⟨encodedAs_of_encode fun _ => packNNN_of_and_family (f := 0xA#4),
    fun nnn s => ⟨_, rfl, absolute_toNat nnn, frame_setIndex s _⟩⟩

/-- Settles O32: the instruction is one write of I, of a sum of words. -/
theorem addIWrapsAtSixteenBits : Obligations.AddIWrapsAtSixteenBits :=
  ⟨encodedAs_of_encode fun _ => packXNN_of_and_low (f := 0xF#4) (nn := 0x1E#8),
    fun x s => ⟨_, rfl, toNat_add_setWidth s.ireg (s.reg x), frame_setIndex s _⟩⟩

/-- Settles O33: the instruction is one write of I, of a glyph address. -/
theorem ldFPointsAtGlyph : Obligations.LdFPointsAtGlyph :=
  ⟨encodedAs_of_encode fun _ => packXNN_of_and_low (f := 0xF#4) (nn := 0x29#8),
    fun x s => ⟨_, rfl, toNat_glyphAddr (s.reg x), frame_setIndex s _⟩⟩
end

section
/-! Proofs for the family 44_display, the layer of facts: what one draw leaves on the framebuffer and in VF, what a second
draw of the same sprite does to it, and the frames of the two display instructions. -/

namespace Sys2Proof.Machine

variable {s : State}

/-! ## Frames -/

theorem frame_showFrame (s : State) (f : Framebuffer) : Frame [.fb, .redraw] [] nowhere s (s.showFrame f) := by
  refine frame_of_items (fun x hx => ?_) rfl rfl
  cases x with
  | fb | redraw => simp at hx
  | _ => rfl

theorem frame_setFlag_showFrame (s : State) (b : Bool) (f : Framebuffer) :
    Frame [.fb, .redraw] [15] nowhere s ((s.setFlag b).showFrame f) := by
  obtain ⟨items, -, -⟩ := frame_showFrame s f
  exact ⟨fun x hx => by cases x <;> exact items _ hx,
    fun r hr => reg_setFlag_of_ne s b (List.mem_singleton.not.mp hr), fun _ _ => rfl⟩

/-! ## One draw (R601, R602) -/

/-- The canvas DXYN ends with: the sprite at I, drawn over the framebuffer from the entry values of V[x] and V[y]. -/
def State.drawn (s : State) (x y : Reg) (n : BitVec 4) : Canvas :=
  Canvas.drawSprite s.spriteRows (s.reg x) (s.reg y) n.toNat ⟨s.fb, false⟩

variable {x y : Reg} {n : BitVec 4}

/-- A sprite is in range exactly when it has no row or its last row is. -/
theorem indexRangeOk_iff_last_le (s : State) (k : Nat) :
    s.indexRangeOk k ↔ k = 0 ∨ s.ireg.toNat + k - 1 ≤ 0xFFF := by
  rw [indexRangeOk_iff]; omega

theorem exec_drw_of_inRange (h : n.toNat = 0 ∨ s.ireg.toNat + n.toNat - 1 ≤ 0xFFF) :
    exec (.drw x y n) s = .next ((s.setFlag (s.drawn x y n).hit).showFrame (s.drawn x y n).fb) :=
  if_pos ((indexRangeOk_iff_last_le s _).mpr h)

theorem exec_drw_of_beyond (hn : 0 < n.toNat) (h : s.ireg.toNat + n.toNat - 1 > 0xFFF) :
    exec (.drw x y n) s = .next (s.raiseIn (.drw x y n) .addressOutOfRange) :=
  if_neg ((indexRangeOk_iff_last_le s _).not.mpr (by omega))

theorem get_drawn (s : State) (x y : Reg) (n : BitVec 4) (px : Column) (py : Row) :
    Framebuffer.get (s.drawn x y n).fb px py = true ↔
      (Framebuffer.get s.fb px py = true ↔ ¬ SpriteCovers s.spriteRows (s.reg x) (s.reg y) n.toNat px py) :=
  get_drawSprite _ _ _ _ n.isLt.le _ px py

theorem hit_drawn (s : State) (x y : Reg) (n : BitVec 4) :
    (s.drawn x y n).hit = true ↔
      ∃ px py, SpriteCovers s.spriteRows (s.reg x) (s.reg y) n.toNat px py ∧ Framebuffer.get s.fb px py = true :=
  (hit_drawSprite _ _ _ _ n.isLt.le _).trans (or_iff_right Bool.false_ne_true)

/-- VF after a draw, as a number, is the collision output (R601). -/
theorem toNat_vf_setFlag_showFrame (s : State) (b : Bool) (f : Framebuffer) :
    (((s.setFlag b).showFrame f).reg 15).toNat = if b then 1 else 0 :=
  (toNat_reg_setFlag s b 15).trans (flagByte_toNat b)

theorem vf_setFlag_showFrame_eq_one_iff (s : State) (b : Bool) (f : Framebuffer) :
    (((s.setFlag b).showFrame f).reg 15).toNat = 1 ↔ b = true := by
  rw [toNat_vf_setFlag_showFrame]
  cases b <;> decide

/-! ## A second draw (R603, R605) -/

/-- Framebuffers with equal cells are equal (R110). -/
theorem Framebuffer.eq_of_get_eq {f g : Framebuffer} (h : ∀ px py, Framebuffer.get f px py = Framebuffer.get g px py) :
    f = g :=
  Vector.ext fun py hy => Vector.ext fun px hx => h ⟨px, hx⟩ ⟨py, hy⟩

/-- The sprite engine reads the rows it draws and no others. -/
theorem drawSprite_congr {rows rows' : Nat → Byte} {k : Nat} (h : ∀ r, r < k → rows' r = rows r) (cx cy : Byte)
    (c : Canvas) : Canvas.drawSprite rows' cx cy k c = Canvas.drawSprite rows cx cy k c := by
  induction k with
  | zero => rfl
  | succ k ih => rw [Canvas.drawSprite, Canvas.drawSprite, h k k.lt_succ_self, ih fun r hr => h r (by omega)]

section Twice

variable (rows : Nat → Byte) (cx cy : Byte) {k : Nat} (c : Canvas) (b : Bool)

/-- A cell turned over twice is as it was. -/
theorem fb_drawSprite_twice (hk : k ≤ 16) :
    (Canvas.drawSprite rows cx cy k ⟨(Canvas.drawSprite rows cx cy k c).fb, b⟩).fb = c.fb := by
  refine Framebuffer.eq_of_get_eq fun px py => Bool.eq_iff_iff.mpr ?_
  rw [get_drawSprite _ _ _ _ hk, get_drawSprite _ _ _ _ hk]
  tauto

/-- A covered cell is lit before the second draw exactly where it was off before the first. -/
theorem hit_drawSprite_twice (hk : k ≤ 16) :
    (Canvas.drawSprite rows cx cy k ⟨(Canvas.drawSprite rows cx cy k c).fb, false⟩).hit = true ↔
      ∃ px py, SpriteCovers rows cx cy k px py ∧ Framebuffer.get c.fb px py = false := by
  rw [hit_drawSprite _ _ _ _ hk, or_iff_right Bool.false_ne_true]
  refine exists_congr fun px => exists_congr fun py => and_congr_right fun hcov => ?_
  rw [get_drawSprite _ _ _ _ hk, iff_false_right (not_not.mpr hcov), Bool.not_eq_true]

end Twice

/-- A later state with the framebuffer, the I, the coordinates and the sprite bytes that a draw has left draws over it. -/
theorem drawn_after_draw {b : Bool} {t' : State} (hx : x ≠ 15) (hy : y ≠ 15)
    (hfb : t'.fb = (s.drawn x y n).fb) (hvx : t'.reg x = (s.setFlag b).reg x) (hvy : t'.reg y = (s.setFlag b).reg y)
    (hrows : ∀ r, r < n.toNat → t'.spriteRows r = s.spriteRows r) :
    t'.drawn x y n =
      Canvas.drawSprite s.spriteRows (s.reg x) (s.reg y) n.toNat ⟨(s.drawn x y n).fb, false⟩ := by
  rw [State.drawn, hfb, hvx, hvy, reg_setFlag_of_ne s b hx, reg_setFlag_of_ne s b hy, drawSprite_congr hrows]

end Sys2Proof.Machine
end

section
/-! Proofs for the family 44_display: the obligations, each from the lemmas above. -/

open Sys2Proof Sys2Proof.Machine

/-- Settles O41: the draw is the sprite engine over the framebuffer, with its collision output in VF. -/
theorem drwTogglesCoveredCells : Obligations.DrwTogglesCoveredCells := by
  refine ⟨encodedAs_of_encode fun _ => packXYN_of_and_family (f := 0xD#4), fun x y n s h => ?_,
    fun x y n s hn h => takesFatal_of_raiseIn (exec_drw_of_beyond hn h)⟩
  refine ⟨_, exec_drw_of_inRange h, get_drawn s x y n, fun hlit => ?_, fun hnone => ?_, rfl,
    frame_setFlag_showFrame s _ _⟩
  · rw [toNat_vf_setFlag_showFrame, if_pos ((hit_drawn s x y n).mpr hlit)]
  · rw [toNat_vf_setFlag_showFrame, if_neg ((hit_drawn s x y n).not.mpr hnone)]

/-- Settles O42: the second draw runs the sprite engine, with the same sprite at the same place, over what it has left. -/
theorem doubleDrawRestores : Obligations.DoubleDrawRestores := by
  intro x y n s hx hy h
  refine ⟨_, exec_drw_of_inRange h, (vf_setFlag_showFrame_eq_one_iff s _ _).trans (hit_drawn s x y n),
    fun t' hfb hireg hvx hvy hrows => ?_⟩
  have hsame : t'.ireg = s.ireg := hireg
  have again := drawn_after_draw hx hy hfb hvx hvy hrows
  refine ⟨_, exec_drw_of_inRange (hsame ▸ h), ?_, (vf_setFlag_showFrame_eq_one_iff t' _ _).trans ?_⟩
  · exact (congrArg Canvas.fb again).trans (fb_drawSprite_twice _ _ _ _ _ n.isLt.le)
  · rw [again]
    exact hit_drawSprite_twice _ _ _ ⟨s.fb, false⟩ n.isLt.le

/-- Refutes O43: where a one-pixel sprite falls on the one lit cell, the first draw turns it off and the second meets no lit
cell, though the sprite has a set bit. -/
theorem not_secondDrawCollidesIffSpriteHasSetBit : ¬ Obligations.SecondDrawCollidesIffSpriteHasSetBit := by
  intro h
  have hsecond := h 0 1 1#4
    { State.reset with mem := [(0, 0x80#8)], fb := Framebuffer.set Framebuffer.clear 0 0 true } _ _
    (by decide) (by decide) (by decide) rfl rfl
  exact absurd (hsecond.mpr ⟨0, 7, by decide, by decide, by decide⟩) (by decide)

/-- Settles O40: the instruction is one write of the framebuffer. -/
theorem clsClearsEveryCell : Obligations.ClsClearsEveryCell :=
  ⟨encodedAs_of_encode fun _ hw => hw.symm.trans BitVec.and_allOnes,
    fun s => ⟨_, rfl, Framebuffer.get_clear, rfl, frame_showFrame s _⟩⟩
end

section
/-! Proofs for the family 45_timers: the frames of the two timer writes, and the obligation. -/

namespace Sys2Proof.Machine

/-! ## Writes of the timers (R651, R652) -/

theorem frame_setDelay (s : State) (b : Byte) : Frame [.dt] [] nowhere s (s.setDelay b) := by
  refine frame_of_items (fun x hx => ?_) rfl rfl
  cases x with
  | dt => simp at hx
  | _ => rfl

theorem frame_setSound (s : State) (b : Byte) : Frame [.st] [] nowhere s (s.setSound b) := by
  refine frame_of_items (fun x hx => ?_) rfl rfl
  cases x with
  | st => simp at hx
  | _ => rfl

end Sys2Proof.Machine
end

section
open Sys2Proof Sys2Proof.Machine

/-- Settles O44: each instruction is one write, of V[x], of DT or of ST. -/
theorem timerInstructionsMove : Obligations.TimerInstructionsMove := by
  refine ⟨?_, ?_, ?_, fun x s => ?_, fun x s => ?_, fun x s => ?_⟩
  · exact encodedAs_of_encode fun _ => packXNN_of_and_low (f := 0xF#4) (nn := 0x07#8)
  · exact encodedAs_of_encode fun _ => packXNN_of_and_low (f := 0xF#4) (nn := 0x15#8)
  · exact encodedAs_of_encode fun _ => packXNN_of_and_low (f := 0xF#4) (nn := 0x18#8)
  · exact exec_of_setReg rfl
  · exact ⟨_, rfl, rfl, frame_setDelay s (s.reg x)⟩
  · exact ⟨_, rfl, rfl, frame_setSound s (s.reg x)⟩
end

section
/-! Proofs for the family 60_exceptions, the layer of facts: the error an instruction takes against its result code, the
record a STEP returns, and what each of the other host operations leaves. -/

namespace Sys2Proof.Machine

variable {s t : State}

/-! ## The one error of an instruction (R711, R714) -/

/-- An instruction takes no error and leaves the latch, or takes the error of its result code and does nothing else. -/
theorem exec_error_cases {i : Instr} (h : exec i s = .next t) :
    (executionCode i s = .ok ∧ t.fault = s.fault) ∨ ∃ c, executionCode i s = c.result ∧ t = s.raiseIn i c := by
  have hn := exec_writesOnlyNamed h
  cases i with
  | ret =>
    obtain ⟨hsp, rfl⟩ | ⟨k, hk, hsp, rfl⟩ := exec_ret_cases h
    · exact .inr ⟨.stackUnderflow, if_pos hsp, rfl⟩
    · exact .inl ⟨if_neg (by omega), rfl⟩
  | call =>
    obtain ⟨hsp, rfl⟩ | ⟨hsp, rfl⟩ := exec_call_cases h
    · exact .inr ⟨.stackOverflow, if_pos hsp, rfl⟩
    · exact .inl ⟨if_neg hsp.ne, rfl⟩
  | drw x y n =>
    have hrange := indexRangeOk_iff_last_le s n.toNat
    obtain ⟨hr, c, -, rfl⟩ | ⟨hr, rfl⟩ := exec_drw_cases h
    · exact .inl ⟨if_pos (hrange.mp hr), rfl⟩
    · exact .inr ⟨.addressOutOfRange, if_neg (hrange.not.mp hr), rfl⟩
  | ldBVx x =>
    have hrange := indexRangeOk_succ_iff s 2
    obtain ⟨hr, rfl⟩ | ⟨hr, rfl⟩ := exec_ldBVx_cases h
    · exact .inl ⟨if_pos (hrange.mp hr), rfl⟩
    · exact .inr ⟨.addressOutOfRange, if_neg (hrange.not.mp hr), rfl⟩
  | ldMemVx x =>
    have hrange := indexRangeOk_succ_iff s x.val
    obtain ⟨hr, rfl⟩ | ⟨hr, rfl⟩ := exec_ldMemVx_cases h
    · exact .inl ⟨if_pos (hrange.mp hr), rfl⟩
    · exact .inr ⟨.addressOutOfRange, if_neg (hrange.not.mp hr), rfl⟩
  | ldVxMem x =>
    have hrange := indexRangeOk_succ_iff s x.val
    obtain ⟨hr, rfl⟩ | ⟨hr, rfl⟩ := exec_ldVxMem_cases h
    · exact .inl ⟨if_pos (hrange.mp hr), loadRegs_fault _ s⟩
    · exact .inr ⟨.addressOutOfRange, if_neg (hrange.not.mp hr), rfl⟩
  | _ => exact .inl ⟨rfl, hn.fault rfl⟩

/-- The conditions of the errors do not read PC, so the advance of the fetch does not change them. -/
@[simp] theorem executionCode_advance (i : Instr) (s : State) : executionCode i s.advance = executionCode i s := by
  cases i <;> rfl

theorem result_ne_unknownOpcode (c : FaultCode) : c.result ≠ .unknownOpcode := by cases c <;> nofun

theorem result_ne_ok (c : FaultCode) : c.result ≠ .ok := by cases c <;> nofun

/-! ## The record a STEP returns (R407, R710) -/

/-- The STEP of an instruction returns its result code. -/
theorem stepResult_of_exec {w : Word} {i : Instr} (hf : s.fault = none) (hw : s.fetchWord = some w)
    (hd : decodeWord w = .instr i) (h : exec i s.advance = .next t) :
    stepResult s t = ⟨executionCode i s, s.pc, some w, none⟩ := by
  rw [← executionCode_advance]
  rcases exec_error_cases h with ⟨hok, ht⟩ | ⟨c, hc, rfl⟩
  · rw [hok, stepResult_of_ok hf hw hd (ht.trans hf)]
  · rw [hc, stepResult_of_fault hf hw hd (raiseIn_fault _ _ _)]

/-- The record of a STEP that is not halted names the word fetched. -/
theorem stepResult_word (hf : s.fault = none) (h : step s = .next t) : (stepResult s t).word = s.fetchWord := by
  rcases step_cases s with ⟨f, hf'⟩ | ⟨-, hw⟩ | ⟨w, why, -, hw, hd⟩ | ⟨w, i, -, hw, hd⟩
  · simp [hf] at hf'
  · rw [stepResult_of_fetchFailure hf hw, hw]
  · rw [stepResult_of_unknown hf hw hd, hw]
  · rw [step_of_instr hf hw hd] at h
    rw [stepResult_of_exec hf hw hd h, hw]

/-- The record of every STEP names the address of the instruction. -/
theorem stepResult_addr (h : step s = .next t) : (stepResult s t).addr = s.pc := by
  rcases step_cases s with ⟨f, hf⟩ | ⟨hf, hw⟩ | ⟨w, why, hf, hw, hd⟩ | ⟨w, i, hf, hw, hd⟩
  · rw [stepResult_of_halted hf]
  · rw [stepResult_of_fetchFailure hf hw]
  · rw [stepResult_of_unknown hf hw hd]
  · rw [step_of_instr hf hw hd] at h
    rw [stepResult_of_exec hf hw hd h]

/-! ## TICK and SOUND_ON (R740, R741) -/

theorem toNat_countDown_of_pos {b : Byte} (h : 0 < b.toNat) : (countDown b).toNat = b.toNat - 1 := by
  rw [countDown, if_pos h]
  exact BitVec.toNat_sub_of_le h

theorem toNat_countDown_of_zero {b : Byte} (h : b.toNat = 0) : (countDown b).toNat = 0 := by
  rw [countDown, if_neg h.not_gt, h]

theorem frame_tick (s : State) : Frame [.dt, .st] [] nowhere s (tick s) := by
  refine frame_of_items (fun x hx => ?_) rfl rfl
  cases x with
  | dt | st => simp at hx
  | _ => rfl

theorem soundOn_iff (s : State) : soundOn s = true ↔ s.st.toNat ≠ 0 :=
  bne_iff_ne.trans BitVec.toNat_ne

/-! ## The setters (R761, R762) -/

theorem frame_setKeys (k : Vector Bool 16) (s : State) : Frame [.key] [] nowhere s (setKeys k s) := by
  refine frame_of_items (fun x hx => ?_) rfl rfl
  cases x with
  | key => simp at hx
  | _ => rfl

theorem frame_ackRedraw (s : State) : Frame [.redraw] [] nowhere s (ackRedraw s) := by
  refine frame_of_items (fun x hx => ?_) rfl rfl
  cases x with
  | redraw => simp at hx
  | _ => rfl

/-! ## LOWMEM_WRITE (R763) -/

variable {addr : Nat} {bytes : List Byte}

theorem perform_lowmemWrite_of_low (hpos : 1 ≤ bytes.length) (hlast : addr + bytes.length - 1 ≤ 0x1FF) (s : State) :
    perform (.lowmemWrite addr bytes) s =
      .next (s.setMem (Memory.writeBytes s.mem addr bytes), .lowmem .ok) := by
  rw [perform, lowmemWrite, if_pos ⟨hpos, hlast⟩]

theorem perform_lowmemWrite_of_refused (h : bytes.length = 0 ∨ addr + bytes.length - 1 > 0x1FF) (s : State) :
    perform (.lowmemWrite addr bytes) s = .next (s, .lowmem .refused) := by
  rw [perform, lowmemWrite, if_neg]
  rw [Config.reservedLowLast]
  omega

/-! ## What the host can write without a STEP, a RESET or an accepted LOAD (R767) -/

/-- From `s` to `t` only those items have changed that the host can write by `op` directly: memory up to 0x1FF, the timers
by TICK, the keys, and REDRAW, which it can only clear. -/
structure WritesHostItems (op : Operation) (s t : State) : Prop where
  v : t.v = s.v
  ireg : t.ireg = s.ireg
  pc : t.pc = s.pc
  sp : t.sp = s.sp
  stack : t.stack = s.stack
  fb : t.fb = s.fb
  fault : t.fault = s.fault
  unkSeen : t.unkSeen = s.unkSeen
  timers : op ≠ .tick → t.dt = s.dt ∧ t.st = s.st
  redraw : t.redraw = true → s.redraw = true
  mem : ∀ a, 0x1FF < a → Memory.read t.mem a = Memory.read s.mem a

theorem WritesHostItems.refl (op : Operation) (s : State) : WritesHostItems op s s where
  v := rfl
  ireg := rfl
  pc := rfl
  sp := rfl
  stack := rfl
  fb := rfl
  fault := rfl
  unkSeen := rfl
  timers _ := ⟨rfl, rfl⟩
  redraw := id
  mem _ _ := rfl

/-- An accepted LOWMEM_WRITE ends at 0x1FF (R763). -/
theorem lowmemWrite_writesHostItems (addr : Nat) (bytes : List Byte) (s : State) :
    ∃ t r, perform (.lowmemWrite addr bytes) s = .next (t, r) ∧ WritesHostItems (.lowmemWrite addr bytes) s t := by
  by_cases hlow : 1 ≤ bytes.length ∧ addr + bytes.length - 1 ≤ 0x1FF
  · obtain ⟨hpos, hlast⟩ := hlow
    refine ⟨_, _, perform_lowmemWrite_of_low hpos hlast s, ?_⟩
    exact { WritesHostItems.refl (.lowmemWrite addr bytes) s with
      mem := fun a ha => Memory.read_writeBytes_outside bytes s.mem (by omega) }
  · exact ⟨_, _, perform_lowmemWrite_of_refused (by omega) s, .refl _ s⟩

open WritesHostItems in
theorem perform_writesHostItems {op : Operation} (s : State) (hstep : op ≠ .step) (hreset : op ≠ .reset)
    (hload : ∀ rom, op = .load rom → rom.length > 3584) :
    ∃ t r, perform op s = .next (t, r) ∧ WritesHostItems op s t := by
  cases op with
  | step => exact absurd rfl hstep
  | reset => exact absurd rfl hreset
  | load rom => exact ⟨_, _, perform_load_of_gt (hload rom rfl) s, refl _ s⟩
  | tick => exact ⟨_, _, rfl, { refl .tick s with timers := fun h => absurd rfl h }⟩
  | setKeys k => exact ⟨_, _, rfl, { refl (.setKeys k) s with }⟩
  | ackRedraw => exact ⟨_, _, rfl, { refl .ackRedraw s with redraw := nofun }⟩
  | lowmemWrite addr bytes => exact lowmemWrite_writesHostItems addr bytes s
  | observe => exact ⟨_, _, rfl, refl _ s⟩

/-! ## The framebuffer as the host receives it (R745) -/

/-- The list of cells handed to the host is the rows one after another. -/
theorem framebufferExport_eq_flatten (s : State) : framebufferExport s = s.fb.flatten.toList := by
  have hrows : (s.fb.toArray.map Vector.toArray).toList.map Array.toList = s.fb.toList.map Vector.toList := by
    rw [Array.toList_map, List.map_map]; rfl
  calc framebufferExport s = (s.fb.toList.map Vector.toList).flatten := List.flatMap_def
    _ = (s.fb.toArray.map Vector.toArray).flatten.toList := by rw [Array.toList_flatten, hrows]

/-- The cell of column `px` and row `py` is number `py * 64 + px` of the rows one after another (R110). -/
theorem getElem_flatten_eq_get (f : Framebuffer) (px : Column) (py : Row) (h : py.val * 64 + px.val < 32 * 64) :
    f.flatten[py.val * 64 + px.val] = Framebuffer.get f px py := by
  have hrow : (py.val * 64 + px.val) / 64 = py.val := by omega
  have hcol : (py.val * 64 + px.val) % 64 = px.val := by omega
  rw [Vector.getElem_flatten h]
  simp only [hrow, hcol]
  rfl

end Sys2Proof.Machine
end

section
/-! Proofs for the family 60_exceptions: the obligations, each from the lemmas above. -/

open Sys2Proof Sys2Proof.Machine

/-- Settles O12, by the cases of STEP in the order of the priority. -/
theorem errorOfEveryStep : Obligations.ErrorOfEveryStep := by
  intro s
  obtain ⟨t, ht⟩ := step_answers s
  refine ⟨t, _, perform_step ht, stepResult_addr ht, fun f hf => ?_, fun hf hpc => ?_,
    fun w hf hw => ⟨(stepResult_word hf ht).trans hw, fun why hd => ?_, fun i hd => ?_⟩⟩
  · rw [stepResult_of_halted hf]
    exact ⟨rfl, rfl, rfl⟩
  · rw [stepResult_of_fetchFailure hf (fetchWord_eq_none_iff.mpr hpc)]
    exact ⟨rfl, rfl⟩
  · rw [stepResult_of_unknown hf hw hd]
  · rw [step_of_instr hf hw hd] at ht
    rw [stepResult_of_exec hf hw hd ht]

/-- Settles O13, by the three cases of a STEP that is not halted: each error is one shared operation on the state before it,
or on that with PC advanced. -/
theorem errorsArePrecise : Obligations.ErrorsArePrecise := by
  intro s hf
  obtain ⟨t, ht⟩ := step_answers s
  refine ⟨t, _, perform_step ht, stepResult_addr ht, stepResult_word hf ht, ?_⟩
  rcases step_cases s with ⟨f, hf'⟩ | ⟨-, hw⟩ | ⟨w, why, -, hw, hd⟩ | ⟨w, i, -, hw, hd⟩
  · simp [hf] at hf'
  · rw [step_of_fetchFailure hf hw] at ht; cases ht
    rw [stepResult_of_fetchFailure hf hw]
    exact ⟨fun _ => ⟨.addressOutOfRange, rfl, rfl⟩, nofun, nofun⟩
  · rw [step_of_unknown hf hw hd] at ht; cases ht
    rw [stepResult_of_unknown hf hw hd]
    exact ⟨nofun, fun _ => rfl, nofun⟩
  · rw [step_of_instr hf hw hd] at ht
    have hn := exec_writesOnlyNamed ht
    rw [stepResult_of_exec hf hw hd ht, ← executionCode_advance]
    rcases exec_error_cases ht with ⟨hok, hfault⟩ | ⟨c, hc, rfl⟩
    · rw [hok]
      exact ⟨nofun, nofun, fun _ => ⟨hfault.trans hf, hn.unkSeen⟩⟩
    · rw [hc, raiseIn_advance, encode_of_decodeWord hd]
      exact ⟨fun _ => ⟨c, rfl, rfl⟩, fun h => absurd h (result_ne_unknownOpcode c), fun h => absurd h (result_ne_ok c)⟩

/-- Settles O48: the operation is one run of writes where its bytes are low, and nothing elsewhere. -/
theorem lowmemWriteStaysLow : Obligations.LowmemWriteStaysLow :=
  ⟨fun addr bytes s hpos hlast => ⟨_, perform_lowmemWrite_of_low hpos hlast s,
      Memory.read_writeBytes_inside bytes s.mem addr, frame_setMem_writeBytes s addr bytes⟩,
    fun _ _ s h => perform_lowmemWrite_of_refused h s⟩

/-- Settles O50: the cells handed to the host are the rows of the framebuffer one after another. -/
theorem exportIsRowMajor : Obligations.ExportIsRowMajor := by
  intro s
  rw [framebufferExport_eq_flatten]
  refine ⟨Vector.length_toList, fun px py => ?_⟩
  have hlt : py.val * 64 + px.val < 32 * 64 := by omega
  rw [Vector.getElem?_toList, Vector.getElem?_eq_getElem hlt, getElem_flatten_eq_get]

/-- Settles O51: the remaining operations write only the items that are the host's to write. -/
theorem hostCannotWriteDirectly : Obligations.HostCannotWriteDirectly := by
  intro op s hstep hreset hload
  obtain ⟨t, r, ht, hw⟩ := perform_writesHostItems s hstep hreset hload
  exact ⟨t, r, ht, hw.v, hw.ireg, hw.pc, hw.sp, hw.stack, hw.fb, hw.fault, hw.unkSeen, hw.timers, hw.redraw, hw.mem⟩

/-- Settles O10: the unknown case of STEP and of its record. -/
theorem unknownOpcodeAdvancesAndMarks : Obligations.UnknownOpcodeAdvancesAndMarks := by
  intro s w why hf hw hd
  refine ⟨s.advance.raiseUnknown, ?_, rfl, hf⟩
  rw [perform_step (step_of_unknown hf hw hd), stepResult_of_unknown hf hw hd]

/-- Settles O45: TICK counts each timer down. -/
theorem tickCountsDownToZero : Obligations.TickCountsDownToZero := fun s =>
  ⟨_, rfl, toNat_countDown_of_pos, toNat_countDown_of_zero, toNat_countDown_of_pos, toNat_countDown_of_zero,
    frame_tick s⟩

/-- Settles O49: each setter is one write, and OBSERVE hands the state out. -/
theorem settersAndObserve : Obligations.SettersAndObserve :=
  ⟨fun k s => ⟨_, rfl, fun _ => rfl, frame_setKeys k s⟩, fun s => ⟨_, rfl, rfl, frame_ackRedraw s⟩,
    fun s => ⟨_, rfl, rfl, soundOn_iff s⟩⟩
end

section
/-! Proofs for the family 70_reset_and_hazards: what memory holds at reset, and the obligation. -/

namespace Sys2Proof.Machine

/-- Every byte of memory is 0 at reset (R800). -/
@[simp] theorem read_reset_mem (a : Nat) : Memory.read State.reset.mem a = 0#8 := rfl

end Sys2Proof.Machine
end

section
open Sys2Proof Sys2Proof.Machine

/-- Settles O47: an accepted LOAD is one run of writes into the zero memory of the reset state, and a refused one hands the
state back. -/
theorem loadResetsAndCopies : Obligations.LoadResetsAndCopies := by
  refine ⟨fun rom s hlen => ?_, fun rom s hlen => perform_load_of_gt hlen s⟩
  have elsewhere (a : Nat) (ha : a < 0x200 ∨ 0x200 + rom.length ≤ a) :
      Memory.read (Memory.writeBytes State.reset.mem 0x200 rom) a = 0#8 := by
    rw [Memory.read_writeBytes_outside _ _ (by omega), read_reset_mem]
  exact ⟨_, perform_load_of_le hlen s, Memory.read_writeBytes_inside rom State.reset.mem 0x200, elsewhere,
    frame_setMem_writeBytes State.reset 0x200 rom⟩
end
